-- ==== Sys2Proof/Word.lean ====
section
/-! DEFINITION. The word types of the canoboard telemetry codec (spec 00_scope.md R9, R11; 10_state.md R21).
Bit 0 is the least significant bit of every value, and `v.extractLsb' lo len` is the spec's slice
`v[lo+len-1:lo]`; `a ++ b` is the spec's `{a, b}`, with `a` in the most significant position (R11). -/

namespace Sys2Proof

/-- One byte: a BUF location, a tag, a narrow register. -/
abbrev Byte := BitVec 8

/-- One 16-bit value: a reading field, a year, the host port's data. -/
abbrev Half := BitVec 16

/-- A host-port address: 12 bits (R21). -/
abbrev HostAddr := BitVec 12

/-- A host transaction word HTW32 (R100). -/
abbrev Htw := BitVec 32

end Sys2Proof
end

