-- ==== Sys2Proof/Config.lean ====
section
/-! DEFINITION. The fixed parameters of this hardware (spec 00_scope.md R7, R8, R10) and the free values of
the memories at reset (70_reset_and_hazards.md R251). -/

namespace Sys2Proof.Config

/-- `BUF_SIZE`: the buffer holds 256 bytes, offsets 0..255 (R7, R10). -/
def bufSize : Nat := 256

/-- `RD_DEPTH`: RDIN and RDOUT hold 32 entries each (R8, R10). -/
abbrev rdDepth : Nat := 32

/-- `TAG_FULL` (R10, R90); the three tag constants stand here and nowhere else (93 I4; UNVERIFIED, log 11). -/
def tagFull : Byte := 0x02

/-- `TAG_WIND` (R10, R90). -/
def tagWind : Byte := 0x03

/-- `TAG_ENV` (R10, R90). -/
def tagEnv : Byte := 0x04

/-- `TAG_RESERVED` (R10, R90): declared, with no view; it behaves as every other tag without a view. -/
def tagReserved : Byte := 0x06

/-- `TS_W_COMPACT` (R10, R87). -/
def tsWCompact : Nat := 4

/-- `TS_W_EXT` (R10, R87). -/
def tsWExt : Nat := 5

/-- `RW_FULL` (R10, R90). -/
def rwFull : Nat := 16

/-- `RW_WIND` (R10, R90). -/
def rwWind : Nat := 8

/-- `RW_ENV` (R10, R90). -/
def rwEnv : Nat := 8

/-- FREE VALUE (R251, 93 I13; DESIGN CHOICE, log 1): what byte `a` of BUF holds after reset number `draw`, until a
write changes it. It has no body, so nothing can be proved of the byte it is. -/
opaque bufAtReset (draw : Nat) (a : Nat) : BitVec 8

/-- FREE VALUE (R251, 93 I13; DESIGN CHOICE, log 1): what field `f` of RDIN entry `i` holds after reset number
`draw`, with `k = 8*i + f`. -/
opaque rdinAtReset (draw : Nat) (k : Nat) : BitVec 16

/-- FREE VALUE (R251, 93 I13; DESIGN CHOICE, log 1): what field `f` of RDOUT entry `i` holds after reset number
`draw`, with `k = 8*i + f`. -/
opaque rdoutAtReset (draw : Nat) (k : Nat) : BitVec 16

end Sys2Proof.Config
end

