-- ==== Sys2Proof/Syntax.lean ====
section
/-! DEFINITION. The instructions of the block: the six commands of spec/opcode_table.json (30_encoding.md R81).
A command code has no operand field: every operand stands in a fixed register (R20, R81). -/

namespace Sys2Proof

/-- The command set, one constructor per row of the opcode table. -/
inductive Instr where
  /-- TS_PACK, code 0x01 (R122). -/
  | tsPack
  /-- TS_UNPACK, code 0x02 (R124). -/
  | tsUnpack
  /-- RD_ENCODE, code 0x03 (R160). -/
  | rdEncode
  /-- RD_DECODE, code 0x04 (R162). -/
  | rdDecode
  /-- PKT_PACK, code 0x05 (R183). -/
  | pktPack
  /-- PKT_UNPACK, code 0x06 (R190). -/
  | pktUnpack
  deriving DecidableEq, Repr

end Sys2Proof
end

