-- ==== Sys2Proof/Machine/Transaction.lean ====
section
/-! DEFINITION. The names the host port uses: reading fields (spec 10_state.md R27), registers and locations of the
address map (R22), host transactions (R21), the inputs a host can present (R21, R250), and the lines of a host
program in the assembler's form (30_encoding.md R101). -/

namespace Sys2Proof.Machine

/-- The eight fields of a reading, in declaration order (R27, R150). -/
inductive Field where
  | spd | gmax | gmin | dir | temp | pres | hum | volt
  deriving DecidableEq, Repr

/-- The named registers of the host address map (R22), in address order. -/
inductive Reg where
  | cmd | status | tag | ext | addr | nrd | cap | inlen
  | tsSec | tsMin | tsHour | tsDow | tsDom | tsMon | tsYear
  | rlen | otag | oext | onrd
  | otsSec | otsMin | otsHour | otsDow | otsDom | otsMon | otsYear
  deriving DecidableEq, Repr

/-- What a 12-bit host address names: exactly one row of R22. -/
inductive Loc where
  /-- `BUF[a]`. -/
  | buf (a : Nat)
  /-- `RDIN[i].f`. -/
  | rdin (i : Fin 32) (f : Field)
  /-- `RDOUT[i].f`. -/
  | rdout (i : Fin 32) (f : Field)
  /-- A named register. -/
  | reg (r : Reg)
  /-- A reserved address: it holds no state (R24). -/
  | reserved
  deriving DecidableEq, Repr

/-- One transaction on the host port (R21). -/
inductive HostTxn where
  | write (a : HostAddr) (d : Half)
  | read (a : HostAddr)
  deriving DecidableEq, Repr

/-- What the host presents to the block, one at a time: a transaction as its HTW32 word (R100), or the reset input
asserted between transactions (R250). -/
inductive HostInput where
  | word (w : Htw)
  | reset
  deriving DecidableEq, Repr

/-- The `<target>` of an assembler line (R101), with the numbers as written. -/
inductive AsmTarget where
  | reg (r : Reg)
  | buf (n : Nat)
  | rdin (i : Nat) (f : Field)
  | rdout (i : Nat) (f : Field)
  /-- A raw address `@0xNNN`. -/
  | raw (a : Nat)
  deriving DecidableEq, Repr

/-- One line of a host program (R101): the two transactions and the pseudo-instructions. -/
inductive AsmLine where
  /-- `WR <target>, <value>`. -/
  | wr (t : AsmTarget) (v : Nat)
  /-- `RD <target>`, optionally with `; -> <value>`, the expected result. -/
  | rd (t : AsmTarget) (expected : Option Nat)
  /-- A bare command mnemonic. -/
  | command (i : Instr)
  /-- `WRBUF a, b0, ..., bk`. -/
  | wrbuf (a : Nat) (bytes : List Nat)
  /-- `WRRD i, v0, ..., v7`. -/
  | wrrd (i : Nat) (values : List Nat)
  /-- `WRTS sec, min, hour, dow, dom, mon, year`. -/
  | wrts (sec min hour dow dom mon year : Nat)
  deriving DecidableEq, Repr

end Sys2Proof.Machine
end

