-- ==== Sys2Proof/Machine/AddressMap.lean ====
section
/-! DEFINITION. The host address map of spec 10_state.md R22: each register's address, width and access, and the one
row that every 12-bit address falls in. -/

namespace Sys2Proof.Machine

/-- All reading fields, in field-index order (R27). -/
def Field.all : List Field := [.spd, .gmax, .gmin, .dir, .temp, .pres, .hum, .volt]

/-- The field index `f` of R27. -/
def Field.index : Field → Nat
  | .spd => 0
  | .gmax => 1
  | .gmin => 2
  | .dir => 3
  | .temp => 4
  | .pres => 5
  | .hum => 6
  | .volt => 7

/-- The field of an index (R27): an address's low three bits, since both arrays start at a multiple of 8. -/
def Field.ofIndex (n : Nat) : Field := Field.all.getD (n % 8) .spd

/-- All registers, in address order (R22). -/
def Reg.all : List Reg :=
  [.cmd, .status, .tag, .ext, .addr, .nrd, .cap, .inlen] ++
  [.tsSec, .tsMin, .tsHour, .tsDow, .tsDom, .tsMon, .tsYear] ++
  [.rlen, .otag, .oext, .onrd] ++
  [.otsSec, .otsMin, .otsHour, .otsDow, .otsDom, .otsMon, .otsYear]

/-- The address column of R22. -/
def Reg.address : Reg → Nat
  | .cmd => 0x300
  | .status => 0x301
  | .tag => 0x302
  | .ext => 0x303
  | .addr => 0x304
  | .nrd => 0x305
  | .cap => 0x306
  | .inlen => 0x307
  | .tsSec => 0x308
  | .tsMin => 0x309
  | .tsHour => 0x30A
  | .tsDow => 0x30B
  | .tsDom => 0x30C
  | .tsMon => 0x30D
  | .tsYear => 0x30E
  | .rlen => 0x310
  | .otag => 0x311
  | .oext => 0x312
  | .onrd => 0x313
  | .otsSec => 0x318
  | .otsMin => 0x319
  | .otsHour => 0x31A
  | .otsDow => 0x31B
  | .otsDom => 0x31C
  | .otsMon => 0x31D
  | .otsYear => 0x31E

/-- The width column of R22. -/
def Reg.width : Reg → Nat
  | .cmd => 8
  | .status => 8
  | .tag => 8
  | .ext => 1
  | .addr => 8
  | .nrd => 8
  | .cap => 9
  | .inlen => 9
  | .tsSec => 8
  | .tsMin => 8
  | .tsHour => 8
  | .tsDow => 8
  | .tsDom => 8
  | .tsMon => 8
  | .tsYear => 16
  | .rlen => 9
  | .otag => 8
  | .oext => 1
  | .onrd => 8
  | .otsSec => 8
  | .otsMin => 8
  | .otsHour => 8
  | .otsDow => 8
  | .otsDom => 8
  | .otsMon => 8
  | .otsYear => 16

/-- The registers the host may write and read back: R/W in R22 (CMD is write-only, the rest read-only). -/
def Reg.readWrite : Reg → Bool
  | .tag => true
  | .ext => true
  | .addr => true
  | .nrd => true
  | .cap => true
  | .inlen => true
  | .tsSec => true
  | .tsMin => true
  | .tsHour => true
  | .tsDow => true
  | .tsDom => true
  | .tsMon => true
  | .tsYear => true
  | .cmd => false
  | .status => false
  | .rlen => false
  | .otag => false
  | .oext => false
  | .onrd => false
  | .otsSec => false
  | .otsMin => false
  | .otsHour => false
  | .otsDow => false
  | .otsDom => false
  | .otsMon => false
  | .otsYear => false

/-- The entry index `i` of an RDIN or RDOUT address (R27, R28). -/
def readingIndex (n : Nat) : Fin 32 := ⟨n / 8 % 32, Nat.mod_lt _ (by decide)⟩

/-- The row of R22 that host address `a` falls in. -/
def locate (a : HostAddr) : Loc :=
  if a.toNat < 0x100 then .buf a.toNat
  else if a.toNat < 0x200 then .rdin (readingIndex (a.toNat - 0x100)) (Field.ofIndex (a.toNat - 0x100))
  else if a.toNat < 0x300 then .rdout (readingIndex (a.toNat - 0x200)) (Field.ofIndex (a.toNat - 0x200))
  else
    match Reg.all.find? (fun r => r.address == a.toNat) with
    | some r => .reg r
    | none => .reserved

/-- The host address of a location's row (R22, R27, R28), the inverse of `locate` on the rows that hold state. -/
def Loc.address? : Loc → Option Nat
  | .buf a => some a
  | .rdin i f => some (0x100 + 8 * i.val + f.index)
  | .rdout i f => some (0x200 + 8 * i.val + f.index)
  | .reg r => some r.address
  | .reserved => none

end Sys2Proof.Machine
end

