-- ==== Sys2Proof/WellFormed.lean ====
section
/-! DEFINITION. Which terms stand for something the hardware or its host can issue. A command has no field, so every
`Instr` is well formed (spec 30_encoding.md R81). A host transaction word has two conditions (R100), and an assembler
line bounds each number it writes (R101 with the ranges of 10_state.md R22). -/

namespace Sys2Proof

/-- `CMD8` has no field and no operand (R81): no command is ill formed. -/
def Instr.wellFormed : Instr → Bool
  | .tsPack => true
  | .tsUnpack => true
  | .rdEncode => true
  | .rdDecode => true
  | .pktPack => true
  | .pktUnpack => true

/-- The HTW32 words that are valid program words: reserved bits [30:28] zero, and HDATA zero in a read (R100). -/
def htwWellFormed (w : Htw) : Bool :=
  w.extractLsb' 28 3 == 0 && (w.getLsbD 31 || w.extractLsb' 0 16 == 0)

namespace Machine

/-- A target names a location that R22 has: `BUF[n]` and `RDIN[i].F` inside their arrays, a raw address of 12 bits. -/
def AsmTarget.wellFormed : AsmTarget → Bool
  | .reg _ => true
  | .buf n => n < Config.bufSize
  | .rdin i _ => i < Config.rdDepth
  | .rdout i _ => i < Config.rdDepth
  | .raw a => a < 2 ^ 12

/-- DESIGN CHOICE (log 15): a `<value>` fits the 16 data bits of a transaction; R101 does not bound it. -/
def asmValueOk (v : Nat) : Bool := v < 2 ^ 16

/-- A line whose every transaction can be encoded as a valid word (R100, R101). -/
def AsmLine.wellFormed : AsmLine → Bool
  | .wr t v => t.wellFormed && asmValueOk v
  | .rd t _ => t.wellFormed
  | .command i => i.wellFormed
  | .wrbuf a bs => !bs.isEmpty && a + bs.length ≤ Config.bufSize && bs.all asmValueOk
  | .wrrd i vs => i < Config.rdDepth && vs.length == 8 && vs.all asmValueOk
  | .wrts sec min hour dow dom mon year =>
    [sec, min, hour, dow, dom, mon, year].all asmValueOk

end Machine
end Sys2Proof
end

