-- ==== Sys2Proof/Decode.lean ====
section
/-! DEFINITION. Decoding and encoding of the command code CMD8 (spec 30_encoding.md R81 to R83) and of the host
transaction word HTW32 (R100). Decoding is total and refuses by name; each encoder stands after its decoder. -/

namespace Sys2Proof

/-- Why bits are no instruction or no transaction. -/
inductive DecodeError where
  /-- A command code outside the code map: the block raises ILLEGAL_COMMAND (R83, R225). -/
  | illegalCommand (op : Byte)
  /-- No byte to decode. -/
  | noByte
  /-- An HTW32 word with a nonzero reserved field (R100). -/
  | reservedBits
  /-- An HTW32 read with nonzero HDATA (R100). -/
  | readWithData
  deriving DecidableEq, Repr

/-- One row of the opcode table: `op` selects it when `op AND mask = code` (R82). -/
structure CommandRow where
  code : Byte
  mask : Byte
  instr : Instr
  deriving DecidableEq, Repr

/-- The code map of R81, as spec/opcode_table.json lists it. -/
def commandTable : List CommandRow :=
  [⟨0x01, 0xFF, .tsPack⟩, ⟨0x02, 0xFF, .tsUnpack⟩, ⟨0x03, 0xFF, .rdEncode⟩,
   ⟨0x04, 0xFF, .rdDecode⟩, ⟨0x05, 0xFF, .pktPack⟩, ⟨0x06, 0xFF, .pktUnpack⟩]

/-- The command of code `op`: a full 8-bit compare with each row (R82); every other code is illegal (R83). -/
def decodeCommand (op : Byte) : Except DecodeError Instr :=
  match commandTable.find? (fun row => op &&& row.mask == row.code) with
  | some row => .ok row.instr
  | none => .error (.illegalCommand op)

/-- The command at the head of a byte list, with the bytes after it. -/
def decode : List Byte → Except DecodeError (Instr × List Byte)
  | [] => .error .noByte
  | op :: rest =>
    match decodeCommand op with
    | .ok i => .ok (i, rest)
    | .error e => .error e

/-- The code of a command (R81). -/
def encodeCommand : Instr → Byte
  | .tsPack => 0x01
  | .tsUnpack => 0x02
  | .rdEncode => 0x03
  | .rdDecode => 0x04
  | .pktPack => 0x05
  | .pktUnpack => 0x06

/-- The bytes of a command: its code, and no operand byte (R81). -/
def encode (i : Instr) : List Byte := [encodeCommand i]

/-- The transaction an HTW32 word stands for: WE in bit 31, reserved [30:28], HADDR [27:16], HDATA [15:0] (R100). -/
def decodeHtw (w : Htw) : Except DecodeError Machine.HostTxn :=
  if w.extractLsb' 28 3 ≠ 0 then .error .reservedBits
  else if w.getLsbD 31 then .ok (.write (w.extractLsb' 16 12) (w.extractLsb' 0 16))
  else if w.extractLsb' 0 16 ≠ 0 then .error .readWithData
  else .ok (.read (w.extractLsb' 16 12))

/-- The HTW32 word of a transaction (R100). -/
def encodeHtw : Machine.HostTxn → Htw
  | .write a d => 1#1 ++ 0#3 ++ a ++ d
  | .read a => 0#1 ++ 0#3 ++ a ++ 0#16

/-- The bytes of a table word of `nbits` bits, the first byte from bits 7..0. -/
def tableBytes (nbits w : Nat) : List Byte :=
  (List.range ((nbits + 7) / 8)).map fun k => BitVec.ofNat 8 (w / 2 ^ (8 * k))

/-- The command this decoder reads from a word numbered as spec/opcode_table.json numbers it. -/
def decodeTableWord (nbits w : Nat) : Option Instr :=
  match decode (tableBytes nbits w) with
  | .ok (i, _) => some i
  | .error _ => none

end Sys2Proof
end

