-- ==== Sys2Proof/Machine/State.lean ====
section
/-! DEFINITION. The state of the block as plain data (spec 10_state.md R20 to R45), its reset value
(70_reset_and_hazards.md R250, R251), and the reasons a step can stop. -/

namespace Sys2Proof.Machine

/-- The views a tag selects (30_encoding.md R90). -/
inductive View where
  | full | wind | env
  deriving DecidableEq, Repr

/-- A timestamp value: six 8-bit fields and a 16-bit year (10_state.md R37; 40_timestamp.md, opening). -/
structure Timestamp where
  sec : Byte
  min : Byte
  hour : Byte
  dow : Byte
  dom : Byte
  mon : Byte
  year : Half
  deriving DecidableEq, Repr

/-- A reading value: eight 16-bit fields in declaration order (10_state.md R27; 41_reading.md R150). -/
structure Reading where
  spd : Half
  gmax : Half
  gmin : Half
  dir : Half
  temp : Half
  pres : Half
  hum : Half
  volt : Half
  deriving DecidableEq, Repr

/-- The result of the last command, STATUS.ERR (10_state.md R30; 60_exceptions.md R220). Codes 5 to 7 are never
produced, so no constructor stands for them. -/
inductive Err where
  | ok | unsupportedType | bufferOverflow | truncatedInput | illegalCommand
  deriving DecidableEq, Repr

/-- BUF: the bytes written since the last reset, each with its offset, in rising order. An offset that is not listed
has not been written since then and reads as the free value of `Config.bufAtReset` (R251; DESIGN CHOICE, logs 1 and 2). -/
abbrev Memory := List Host.Cell

/-- The state of the machine: everything R20 lists, and three fields of the model's own at the end. CMD has no field,
since it keeps no value (R29). -/
structure State where
  /-- `BUF[0..255]` (R26). -/
  buf : Memory
  /-- `RDIN[0..31]` (R27). -/
  rdin : Vector Reading Config.rdDepth
  /-- `RDOUT[0..31]` (R28). -/
  rdout : Vector Reading Config.rdDepth
  /-- STATUS.ERR, bits [2:0] (R30). -/
  err : Err
  /-- STATUS.FOVF, bit 3 (R30). -/
  fovf : Bool
  /-- STATUS.BUSY, bit 7 (R30, R260). -/
  busy : Bool
  /-- TAG, 8 bits (R31). -/
  tag : Byte
  /-- EXT, 1 bit (R32). -/
  ext : Bool
  /-- ADDR, 8 bits (R33). -/
  addr : Byte
  /-- NRD, 8 bits (R34). -/
  nrd : Byte
  /-- CAP, 9 bits (R35). -/
  cap : BitVec 9
  /-- INLEN, 9 bits (R36). -/
  inlen : BitVec 9
  /-- TS_SEC .. TS_YEAR (R37). -/
  ts : Timestamp
  /-- RLEN, 9 bits (R38). -/
  rlen : BitVec 9
  /-- OTAG, 8 bits (R39). -/
  otag : Byte
  /-- OEXT, 1 bit (R40). -/
  oext : Bool
  /-- ONRD, 8 bits (R41). -/
  onrd : Byte
  /-- OTS_SEC .. OTS_YEAR (R42). -/
  ots : Timestamp
  /-- MODEL'S OWN (DESIGN CHOICE, log 1): how many times reset has been asserted after the first; it numbers the free draws. -/
  draws : Nat
  /-- MODEL'S OWN (DESIGN CHOICE, log 3): what the host is going to present, the next input first (R21, R43). -/
  pending : List HostInput
  /-- MODEL'S OWN (DESIGN CHOICE, log 5): the data the host's reads have returned, the oldest first (R21). -/
  answers : List Half
  deriving DecidableEq, Repr

/-- No step of this machine stops with a fault. Every error of the spec is a result that a command reports in STATUS,
after which the machine goes on (60_exceptions.md R226), and no access leaves the address map (R24, R232). -/
inductive Fault where
  deriving DecidableEq, Repr

/-- Why a step gives a host's input no meaning. -/
inductive Refusal where
  /-- Raised by `exec` for a command that has no meaning in the model yet: no command is left there. Safe. -/
  | notModelled (mnemonic : String)
  /-- Raised by `perform` for an HTW32 word that R100 calls no valid program word: "a model refuses it" (93 I16).
  Safe. -/
  | invalidProgramWord
  /-- Raised by `perform` for a transaction other than a read of STATUS while BUSY = 1: R260 does not define it, "a
  model refuses such a program" (93 I14). Safe; no run of this atomic model reaches it. -/
  | transactionWhileBusy
  deriving DecidableEq, Repr

/-- The timestamp with every field 0, the reset value of TS_* and OTS_* (R22). -/
def Timestamp.zero : Timestamp := ⟨0, 0, 0, 0, 0, 0, 0⟩

/-- The free draw of an RDIN entry at reset number `draw` (R251; DESIGN CHOICE, log 1). -/
def rdinDraw (draw i : Nat) : Reading :=
  ⟨Config.rdinAtReset draw (8 * i), Config.rdinAtReset draw (8 * i + 1),
   Config.rdinAtReset draw (8 * i + 2), Config.rdinAtReset draw (8 * i + 3),
   Config.rdinAtReset draw (8 * i + 4), Config.rdinAtReset draw (8 * i + 5),
   Config.rdinAtReset draw (8 * i + 6), Config.rdinAtReset draw (8 * i + 7)⟩

/-- The free draw of an RDOUT entry at reset number `draw` (R251; DESIGN CHOICE, log 1). -/
def rdoutDraw (draw i : Nat) : Reading :=
  ⟨Config.rdoutAtReset draw (8 * i), Config.rdoutAtReset draw (8 * i + 1),
   Config.rdoutAtReset draw (8 * i + 2), Config.rdoutAtReset draw (8 * i + 3),
   Config.rdoutAtReset draw (8 * i + 4), Config.rdoutAtReset draw (8 * i + 5),
   Config.rdoutAtReset draw (8 * i + 6), Config.rdoutAtReset draw (8 * i + 7)⟩

/-- The state right after reset number `draw`: every register 0 (R250), every memory location a free draw (R251), and
the host's inputs and answers as given, since they are the host's and not the block's. -/
def State.resetWith (draw : Nat) (pending : List HostInput) (answers : List Half) : State where
  buf := []
  rdin := Vector.ofFn fun i => rdinDraw draw i.val
  rdout := Vector.ofFn fun i => rdoutDraw draw i.val
  err := .ok
  fovf := false
  busy := false
  tag := 0
  ext := false
  addr := 0
  nrd := 0
  cap := 0
  inlen := 0
  ts := .zero
  rlen := 0
  otag := 0
  oext := false
  onrd := 0
  ots := .zero
  draws := draw
  pending := pending
  answers := answers

/-- The machine right after its first reset, before the host has presented anything (R250 to R252). -/
def State.reset : State := State.resetWith 0 [] []

end Sys2Proof.Machine
end

