-- ==== Sys2Proof/Machine/Ops.lean ====
section
/-! DEFINITION. The named operations over BUF, the readings and the registers that the commands share, and the one
operation by which a command reports an error (spec 60_exceptions.md R226). -/

namespace Sys2Proof.Machine

/-! ## The buffer -/

/-- The canonical form of BUF's cells: offsets strictly rising, every one inside the buffer. An unlisted offset reads
as no fixed byte, so no listed cell equals it, and two memories in this form with the same cells are the same list. -/
abbrev Memory.wf (m : Memory) : Prop :=
  m.Pairwise (fun x y => x.1 < y.1) ∧ ∀ c ∈ m, c.1 < Config.bufSize

/-- The byte listed for offset `a`, or none where nothing has written it since the last reset. -/
def Memory.cellAt : Memory → Nat → Option Byte
  | [], _ => none
  | (k, v) :: rest, a => if a = k then some v else Memory.cellAt rest a

/-- The cells with offset `a` holding `v`, put at its place in the order. -/
def Memory.put : Memory → Nat → Byte → Memory
  | [], a, v => [(a, v)]
  | (k, w) :: rest, a, v =>
    if a < k then (a, v) :: (k, w) :: rest
    else if a = k then (a, v) :: rest
    else (k, w) :: Memory.put rest a v

/-- `BUF[a] <- v` (R13). BUF has no offset past its end and nothing is written there (R26; DESIGN CHOICE, log 19). -/
def Memory.write (m : Memory) (a : Nat) (v : Byte) : Memory :=
  if a < Config.bufSize then m.put a v else m

/-- `MemWrite(a, len bytes, bytes)` (R13), the first byte at the lowest offset. -/
def Memory.writeList (m : Memory) (a : Nat) : List Byte → Memory
  | [] => m
  | b :: bs => Memory.writeList (m.write a b) (a + 1) bs

/-- `BUF[a]` (R13, R26): the byte last written, or the free draw of the last reset where nothing has been (R251). -/
def State.byteAt (s : State) (a : Nat) : Byte :=
  (s.buf.cellAt a).getD (Config.bufAtReset s.draws a)

/-- `MemRead(a, n)` (R13). -/
def State.memRead (s : State) (a n : Nat) : List Byte :=
  (List.range n).map fun k => s.byteAt (a + k)

/-- `MemWrite(a, len bytes, bytes)` on the machine (R13). -/
def State.memWrite (s : State) (a : Nat) (bytes : List Byte) : State :=
  { s with buf := s.buf.writeList a bytes }

/-! ## Readings -/

/-- The reading with every field 0 (R155, R192). -/
def Reading.zero : Reading := ⟨0, 0, 0, 0, 0, 0, 0, 0⟩

/-- `r.f` (R150). -/
def Reading.get (r : Reading) : Field → Half
  | .spd => r.spd
  | .gmax => r.gmax
  | .gmin => r.gmin
  | .dir => r.dir
  | .temp => r.temp
  | .pres => r.pres
  | .hum => r.hum
  | .volt => r.volt

/-- `r` with `r.f` replaced by `v`. -/
def Reading.set (r : Reading) (f : Field) (v : Half) : Reading :=
  match f with
  | .spd => { r with spd := v }
  | .gmax => { r with gmax := v }
  | .gmin => { r with gmin := v }
  | .dir => { r with dir := v }
  | .temp => { r with temp := v }
  | .pres => { r with pres := v }
  | .hum => { r with hum := v }
  | .volt => { r with volt := v }

/-- The temperature a reader takes from a reading: its 16-bit pattern as two's complement (R14). No command uses it. -/
def Reading.tempValue (r : Reading) : Int :=
  if r.temp.getLsbD 15 then (r.temp.toNat : Int) - 65536 else r.temp.toNat

/-- `RDOUT[i] <- r` for every entry (42_packet.md R190). -/
def State.writeRdout (s : State) (entries : Vector Reading Config.rdDepth) : State :=
  { s with rdout := entries }

/-! ## Results -/

/-- Write a decoded timestamp to OTS_SEC .. OTS_YEAR together; OTS_DOW is always written 0 (R125). -/
def State.writeOts (s : State) (ts : Timestamp) : State :=
  { s with ots := { ts with dow := 0 } }

/-- `OEXT <- e` (R40). -/
def State.writeOext (s : State) (e : Bool) : State :=
  { s with oext := e }

/-- `OTAG <- tag; ONRD <- n` (R39, R41): what PKT_UNPACK reports of the framing. ONRD takes the low 8 bits of `n`, and
no command gives it more than 31 (R41; DESIGN CHOICE, log 21). -/
def State.writeFraming (s : State) (tag : Byte) (n : Nat) : State :=
  { s with otag := tag, onrd := BitVec.ofNat 8 n }

/-- The end of a successful command: RLEN, ERR = OK and FOVF (R30, R38). RLEN takes the low 9 bits of `n`, and no command
gives it more than 256 (R97; DESIGN CHOICE, log 21). -/
def State.succeed (s : State) (n : Nat) (ovf : Bool) : State :=
  { s with rlen := BitVec.ofNat 9 n, err := .ok, fovf := ovf }

/-! ## Errors -/

/-- STATUS.ERR's code (R220). -/
def Err.code : Err → BitVec 3
  | .ok => 0
  | .unsupportedType => 1
  | .bufferOverflow => 2
  | .truncatedInput => 3
  | .illegalCommand => 4

/-- `raise E`, the block's trap entry (R226): ERR, FOVF and RLEN are written and nothing else changes. There is no
return from it: the next command overwrites what it wrote (R228). -/
def State.raise (s : State) (e : Err) : State :=
  { s with err := e, fovf := false, rlen := 0 }

/-- STATUS as one byte: BUSY in bit 7, bits [6:4] reading 0, FOVF in bit 3, ERR in [2:0] (R30). -/
def State.statusByte (s : State) : Byte :=
  BitVec.ofBool s.busy ++ 0#3 ++ BitVec.ofBool s.fovf ++ s.err.code

/-- Reset asserted between two transactions (R250, R251): registers 0, memories a new free draw. -/
def State.hostReset (s : State) : State :=
  State.resetWith (s.draws + 1) s.pending s.answers

/-- The data a host read returns, handed to the host (R21). -/
def State.answer (s : State) (d : Half) : State :=
  { s with answers := s.answers ++ [d] }

end Sys2Proof.Machine
end

