-- ==== Sys2Proof/Machine/Operands.lean ====
section
/-! DEFINITION. What the commands take from their operand registers: effective capacity and input length (spec
10_state.md R35, R36), the view of a tag (30_encoding.md R90), widths (R87, R150). All lengths and offsets are natural
numbers, so no sum wraps (00_scope.md R11). -/

namespace Sys2Proof.Machine

/-- `CAPE = min(CAP, 256)` (R35). -/
def State.cape (s : State) : Nat := min s.cap.toNat Config.bufSize

/-- `INLE = min(INLEN, 256)` (R36). -/
def State.inle (s : State) : Nat := min s.inlen.toNat Config.bufSize

/-- `tsw = 4 + e`: the width of a timestamp with extension flag `e` (R87). -/
def tsWidth (e : Bool) : Nat := if e then Config.tsWExt else Config.tsWCompact

/-- `View(tag)`, a partial function (R90): none for the reserved tag and every unrecognised one. -/
def viewOf (tag : Byte) : Option View :=
  if tag = Config.tagFull then some .full
  else if tag = Config.tagWind then some .wind
  else if tag = Config.tagEnv then some .env
  else none

/-- `Fields(v)`, the ordered field list of a view (R150). -/
def View.fields : View → List Field
  | .full => [.spd, .gmax, .gmin, .dir, .temp, .pres, .hum, .volt]
  | .wind => [.spd, .gmax, .gmin, .dir]
  | .env => [.temp, .pres, .hum, .volt]

/-- `RW(v)`, the bytes of one record of a view (R90, R150). -/
def View.rw : View → Nat
  | .full => Config.rwFull
  | .wind => Config.rwWind
  | .env => Config.rwEnv

end Sys2Proof.Machine
end

