-- ==== Sys2Proof/Machine/Reading.lean ====
section
/-! DEFINITION. The Reading Codec: its functions and the commands RD_ENCODE and RD_DECODE (spec 30_encoding.md R91 to
R94; 41_reading.md R150 to R165). -/

namespace Sys2Proof.Machine

/-- A field's two bytes, least significant first (20_memory.md R61). -/
def fieldBytes (v : Half) : List Byte := [v.extractLsb' 0 8, v.extractLsb' 8 8]

/-- A field from its two bytes: `high_byte << 8 | low_byte` (R61). -/
def fieldOfBytes (lo hi : Byte) : Half := hi ++ lo

/-- `RdEncode(v, r)` (R151). -/
def rdEncode (v : View) (r : Reading) : List Byte :=
  v.fields.flatMap fun f => fieldBytes (r.get f)

/-- `RdDecode(v, s)`: the reading (R155), with the fields the view does not carry 0 (R156). The spec defines it for a
list that holds the whole record, and a command calls it on no other; a byte that is not there counts as 0 (DESIGN
CHOICE, log 10). -/
def rdDecode (v : View) (s : List Byte) : Reading :=
  v.fields.zipIdx.foldl
    (fun out fk => out.set fk.1 (fieldOfBytes (s.getD (2 * fk.2) 0) (s.getD (2 * fk.2 + 1) 0))) Reading.zero

/-- `encode_reading(tag, r)` (R158): dispatch by tag alone. -/
def encodeReading (tag : Byte) (r : Reading) : Except Err (List Byte) :=
  match viewOf tag with
  | some v => .ok (rdEncode v r)
  | none => .error .unsupportedType

/-- `decode_reading(tag, s)` (R158): the reading and the byte count `RW(View(tag))` (R155). -/
def decodeReading (tag : Byte) (s : List Byte) : Except Err (Reading × Nat) :=
  match viewOf tag with
  | some v => .ok (rdDecode v s, v.rw)
  | none => .error .unsupportedType

/-- `pack_full(r)` (R152). -/
def packFull (r : Reading) : List Byte := rdEncode .full r

/-- `pack_wind(r)` (R153). -/
def packWind (r : Reading) : List Byte := rdEncode .wind r

/-- `pack_env(r)` (R154). -/
def packEnv (r : Reading) : List Byte := rdEncode .env r

/-- `unpack_full(s)` (R157). -/
def unpackFull (s : List Byte) : Reading × Nat := (rdDecode .full s, View.full.rw)

/-- `unpack_wind(s)` (R157). -/
def unpackWind (s : List Byte) : Reading × Nat := (rdDecode .wind s, View.wind.rw)

/-- `unpack_env(s)` (R157). -/
def unpackEnv (s : List Byte) : Reading × Nat := (rdDecode .env s, View.env.rw)

/-- `Project(r, v)`: the fields of the view, every other field 0 (R164). -/
def project (r : Reading) (v : View) : Reading :=
  v.fields.foldl (fun out f => out.set f (r.get f)) Reading.zero

/-- The checks of RD_ENCODE (R160, R230): the tag, then the capacity. -/
def rdEncodeCheck (s : State) : Except Err View :=
  match viewOf s.tag with
  | none => .error .unsupportedType
  | some v => if s.addr.toNat + v.rw > s.cape then .error .bufferOverflow else .ok v

/-- RD_ENCODE (R160): encode `RDIN[0]` in the view of TAG at `BUF[ADDR]`. -/
def execRdEncode (s : State) : Host.Outcome State Fault Refusal :=
  match rdEncodeCheck s with
  | .error e => .next (s.raise e)
  | .ok v => .next ((s.memWrite s.addr.toNat (rdEncode v s.rdin[0])).succeed v.rw false)

/-- The checks of RD_DECODE (R162, R230): the tag, then the declared input. -/
def rdDecodeCheck (s : State) : Except Err View :=
  match viewOf s.tag with
  | none => .error .unsupportedType
  | some v => if s.addr.toNat + v.rw > s.inle then .error .truncatedInput else .ok v

/-- RD_DECODE (R162): decode one record of the view of TAG at `BUF[ADDR]` into `RDOUT[0]`. -/
def execRdDecode (s : State) : Host.Outcome State Fault Refusal :=
  match rdDecodeCheck s with
  | .error e => .next (s.raise e)
  | .ok v =>
    .next ((s.writeRdout (s.rdout.set 0 (rdDecode v (s.memRead s.addr.toNat v.rw)))).succeed v.rw false)

end Sys2Proof.Machine
end

