-- ==== Sys2Proof/Machine/Flags.lean ====
section
/-! DEFINITION. The one computed flag of the block, FOVF (spec 40_timestamp.md R123). ERR is the error a command
raises, or OK (60_exceptions.md R220); both are written by `State.succeed` and `State.raise`. -/

namespace Sys2Proof.Machine

/-- `TsOvf(ts, e)`: some input bit that the chosen form drops is 1 (R123). Seconds in the compact form and day-of-week
in either form never set it. -/
def tsOvf (ts : Timestamp) (e : Bool) : Bool :=
  ts.min.extractLsb' 6 2 != 0
  || ts.hour.extractLsb' 5 3 != 0
  || ts.dom.extractLsb' 5 3 != 0
  || ts.mon.extractLsb' 4 4 != 0
  || (!e && ts.year.extractLsb' 11 5 != 0)
  || (e && ts.year.extractLsb' 13 3 != 0)
  || (e && ts.sec.extractLsb' 6 2 != 0)

end Sys2Proof.Machine
end

