-- ==== Sys2Proof/Machine/Timestamp.lean ====
section
/-! DEFINITION. The Timestamp Codec: its functions and the commands TS_PACK and TS_UNPACK (spec 30_encoding.md R85 to
R89; 40_timestamp.md R120 to R128). -/

namespace Sys2Proof.Machine

/-- `TsBytes(ts, e)` (R88): bits of the inputs that a byte does not name do not reach the output. -/
def tsBytes (ts : Timestamp) (e : Bool) : List Byte :=
  let b0 : Byte := ts.hour.extractLsb' 0 2 ++ ts.min.extractLsb' 0 6
  let b1 : Byte := ts.dom.extractLsb' 0 5 ++ ts.hour.extractLsb' 2 3
  let b2 : Byte := ts.year.extractLsb' 0 4 ++ ts.mon.extractLsb' 0 4
  let b3 : Byte := BitVec.ofBool e ++ ts.year.extractLsb' 4 7
  let b4 : Byte := ts.year.extractLsb' 11 2 ++ ts.sec.extractLsb' 0 6
  if e then [b0, b1, b2, b3, b4] else [b0, b1, b2, b3]

/-- What `TsPack` returns: the bytes, their count, and FieldOverflow (R120). -/
structure TsPacked where
  bytes : List Byte
  width : Nat
  ovf : Bool
  deriving DecidableEq, Repr

/-- `TsPack(ts, e)` (R120). -/
def tsPack (ts : Timestamp) (e : Bool) : TsPacked :=
  ⟨tsBytes ts e, tsWidth e, tsOvf ts e⟩

/-- What `TsUnpack` returns: the timestamp, the extension flag, and the byte count consumed (R121). -/
structure TsUnpacked where
  ts : Timestamp
  ext : Bool
  width : Nat
  deriving DecidableEq, Repr

/-- Field extraction (R89) from bytes 0 to 3 and, when bit 7 of byte 3 is 1, byte 4. Every field is zero-extended. -/
def tsExtract (b0 b1 b2 b3 b4 : Byte) : TsUnpacked :=
  let e := b3.getLsbD 7
  { ts :=
      { sec := if e then (b4.extractLsb' 0 6).setWidth 8 else 0
        min := (b0.extractLsb' 0 6).setWidth 8
        hour := (b1.extractLsb' 0 3 ++ b0.extractLsb' 6 2).setWidth 8
        dow := 0
        dom := (b1.extractLsb' 3 5).setWidth 8
        mon := (b2.extractLsb' 0 4).setWidth 8
        year :=
          if e then (b4.extractLsb' 6 2 ++ b3.extractLsb' 0 7 ++ b2.extractLsb' 4 4).setWidth 16
          else (b3.extractLsb' 0 7 ++ b2.extractLsb' 4 4).setWidth 16 }
    ext := e
    width := tsWidth e }

/-- `TsUnpack(s)` (R121). The spec defines it for a list that holds the whole timestamp, and a command calls it on no
other; a byte that is not there counts as 0 (DESIGN CHOICE, log 10). -/
def tsUnpack (s : List Byte) : TsUnpacked :=
  tsExtract (s.getD 0 0) (s.getD 1 0) (s.getD 2 0) (s.getD 3 0) (s.getD 4 0)

/-- `TsProj(ts, e)`: the timestamp that the encoding can carry (R126). -/
def tsProj (ts : Timestamp) (e : Bool) : Timestamp where
  sec := if e then (ts.sec.extractLsb' 0 6).setWidth 8 else 0
  min := (ts.min.extractLsb' 0 6).setWidth 8
  hour := (ts.hour.extractLsb' 0 5).setWidth 8
  dow := 0
  dom := (ts.dom.extractLsb' 0 5).setWidth 8
  mon := (ts.mon.extractLsb' 0 4).setWidth 8
  year := if e then (ts.year.extractLsb' 0 13).setWidth 16 else (ts.year.extractLsb' 0 11).setWidth 16

/-- TS_PACK (R122): encode the timestamp registers at `BUF[ADDR]`. -/
def execTsPack (s : State) : Host.Outcome State Fault Refusal :=
  if s.addr.toNat + tsWidth s.ext > s.cape then .next (s.raise .bufferOverflow)
  else
    let p := tsPack s.ts s.ext
    .next ((s.memWrite s.addr.toNat p.bytes).succeed p.width p.ovf)

/-- The checks of TS_UNPACK (R124, R230): four bytes, then the fifth where byte 3 has bit 7 set. It answers the
timestamp's width. -/
def tsUnpackCheck (s : State) : Except Err Nat :=
  if s.addr.toNat + 4 > s.inle then .error .truncatedInput
  else
    let w := tsWidth ((s.byteAt (s.addr.toNat + 3)).getLsbD 7)
    if s.addr.toNat + w > s.inle then .error .truncatedInput
    else .ok w

/-- TS_UNPACK (R124): decode the timestamp at `BUF[ADDR]`; EXT is not read. -/
def execTsUnpack (s : State) : Host.Outcome State Fault Refusal :=
  match tsUnpackCheck s with
  | .error e => .next (s.raise e)
  | .ok w =>
    let u := tsUnpack (s.memRead s.addr.toNat w)
    .next (((s.writeOts u.ts).writeOext u.ext).succeed u.width false)

end Sys2Proof.Machine
end

