-- ==== Sys2Proof/Machine/Packet.lean ====
section
/-! DEFINITION. The Packet Framer: the packet function, the framer's sequence, and the commands PKT_PACK and PKT_UNPACK
(spec 30_encoding.md R95 to R97; 42_packet.md R180 to R199). -/

namespace Sys2Proof.Machine

/-- `total = 2 + tsw + n*rw`: the packet's size (R95, R180), a natural number that does not wrap. -/
def pktTotal (v : View) (e : Bool) (n : Nat) : Nat := 2 + tsWidth e + n * v.rw

/-- `PktBytes(tag, ts, e, rs)` for a tag of view `v` (R180). The spec defines it for a total of at most 256, and
PKT_PACK calls it on no other; past that the length byte is `total - 1` mod 256 (DESIGN CHOICE, log 21). R180 has
`v = View(tag)`; tag and view are two arguments here, and where `v` is not the tag's view the packet has the given tag and
records of the given view (DESIGN CHOICE, log 21). -/
def pktBytes (tag : Byte) (v : View) (ts : Timestamp) (e : Bool) (rs : List Reading) : List Byte :=
  [tag, BitVec.ofNat 8 (pktTotal v e rs.length - 1)] ++ tsBytes ts e ++ rs.flatMap (rdEncode v)

/-- The framer while it packs (10_state.md R45): the buffer and the cursor. It lives inside one command only. -/
structure Framer where
  buf : Memory
  cursor : Nat
  deriving DecidableEq, Repr

/-- Append bytes at the cursor and advance it (R181 steps 3 and 4). -/
def Framer.append (fr : Framer) (bytes : List Byte) : Framer :=
  ⟨fr.buf.writeList fr.cursor bytes, fr.cursor + bytes.length⟩

/-- The framer's sequence of R181: tag at 0, a placeholder at 1, the timestamp at 2, each reading at the cursor, and
last the length byte, `cursor - 1`. Past 256 bytes, where R181's packet is not defined, the length byte is taken mod 256
and no byte is written past BUF (DESIGN CHOICE, logs 19 and 21). As for `pktBytes`, `v` need not be the tag's view here
(DESIGN CHOICE, log 21). -/
def framerSequence (buf : Memory) (tag placeholder : Byte) (v : View) (ts : Timestamp) (e : Bool)
    (rs : List Reading) : Framer :=
  let start : Framer := ⟨(buf.write 0 tag).write 1 placeholder, 2⟩
  let done := rs.foldl (fun fr r => fr.append (rdEncode v r)) (start.append (tsBytes ts e))
  ⟨done.buf.write 1 (BitVec.ofNat 8 (done.cursor - 1)), done.cursor⟩

/-- `RDIN[0 .. n-1]` (R183); the capacity check keeps `n <= 31` (R185). Past RDIN's 32 entries, which no command
reaches, it is all of RDIN (DESIGN CHOICE, log 21). -/
def State.readings (s : State) (n : Nat) : List Reading := s.rdin.toList.take n

/-- The checks of PKT_PACK (R183, R186, R230): the tag, even with no reading, then the capacity. -/
def pktPackCheck (s : State) : Except Err View :=
  match viewOf s.tag with
  | none => .error .unsupportedType
  | some v => if pktTotal v s.ext s.nrd.toNat > s.cape then .error .bufferOverflow else .ok v

/-- PKT_PACK (R183): build a packet at `BUF[0]` from TAG, the timestamp registers, EXT and the first NRD readings. -/
def execPktPack (s : State) : Host.Outcome State Fault Refusal :=
  match pktPackCheck s with
  | .error e => .next (s.raise e)
  | .ok v =>
    .next ((s.memWrite 0 (pktBytes s.tag v s.ts s.ext (s.readings s.nrd.toNat))).succeed
      (pktTotal v s.ext s.nrd.toNat) (tsOvf s.ts s.ext))

/-- What PKT_UNPACK learns from the framing: view, length byte, extension flag, reading count. -/
structure PktHeader where
  view : View
  len : Nat
  ext : Bool
  count : Nat
  deriving DecidableEq, Repr

/-- The checks of PKT_UNPACK, in the order of R190 and R230. -/
def pktUnpackCheck (s : State) : Except Err PktHeader :=
  if s.inle < 2 then .error .truncatedInput
  else
    match viewOf (s.byteAt 0) with
    | none => .error .unsupportedType
    | some v =>
      let len := (s.byteAt 1).toNat
      if len < 5 then .error .truncatedInput
      else if len + 1 > s.inle then .error .truncatedInput
      else
        let e := (s.byteAt 5).getLsbD 7
        if len < 1 + tsWidth e then .error .truncatedInput
        else if (len - 1 - tsWidth e) % v.rw ≠ 0 then .error .truncatedInput
        else .ok ⟨v, len, e, (len - 1 - tsWidth e) / v.rw⟩

/-- Record `i` of the packet in BUF: the bytes at `2 + tsw + i*rw` (R190). -/
def State.record (s : State) (h : PktHeader) (i : Nat) : Reading :=
  rdDecode h.view (s.memRead (2 + tsWidth h.ext + i * h.view.rw) h.view.rw)

/-- RDOUT after PKT_UNPACK: the decoded readings, then all-zero entries (R190, R192). -/
def State.records (s : State) (h : PktHeader) : Vector Reading Config.rdDepth :=
  Vector.ofFn fun i => if i.val < h.count then s.record h i.val else Reading.zero

/-- PKT_UNPACK (R190): parse the packet at `BUF[0]`. TAG, EXT, NRD and ADDR are not read. -/
def execPktUnpack (s : State) : Host.Outcome State Fault Refusal :=
  match pktUnpackCheck s with
  | .error e => .next (s.raise e)
  | .ok h =>
    let u := tsUnpack (s.memRead 2 (tsWidth h.ext))
    .next (((((s.writeRdout (s.records h)).writeFraming (s.byteAt 0) h.count).writeOts u.ts).writeOext u.ext).succeed
      (h.len + 1) false)

/-- The reference's loop (R199): from an absolute cursor, decode while `cursor < length`; it answers how many readings
that is. The first argument bounds the rounds. -/
def referenceLoop : Nat → (cursor length rw : Nat) → Nat
  | 0, _, _, _ => 0
  | rounds + 1, cursor, length, rw =>
    if cursor < length then 1 + referenceLoop rounds (cursor + rw) length rw else 0

end Sys2Proof.Machine
end

