-- ==== Sys2Proof/Machine/Dispatch.lean ====
section
/-! DEFINITION. One arm per command: the meaning that the spec's command rules give it (30_encoding.md R81). -/

namespace Sys2Proof.Machine

/-- What a command does: one atomic step over the state (10_state.md R29). -/
def exec (i : Instr) (s : State) : Host.Outcome State Fault Refusal :=
  match i with
  | .tsPack => Sys2Proof.Machine.execTsPack s
  | .tsUnpack => Sys2Proof.Machine.execTsUnpack s
  | .rdEncode => Sys2Proof.Machine.execRdEncode s
  | .rdDecode => Sys2Proof.Machine.execRdDecode s
  | .pktPack => Sys2Proof.Machine.execPktPack s
  | .pktUnpack => Sys2Proof.Machine.execPktUnpack s

end Sys2Proof.Machine
end

