-- ==== Sys2Proof/Machine/HostPort.lean ====
section
/-! DEFINITION. The host port: reads and writes of every location of the address map, the command that a write to CMD
performs, and reset (spec 10_state.md R21 to R24, R29; 60_exceptions.md R225; 70_reset_and_hazards.md R250, R260). -/

namespace Sys2Proof.Machine

/-- A register's value on the port, zero-extended to 16 bits (R23); CMD reads 0 (R24). -/
def State.readReg (s : State) : Reg → Half
  | .cmd => 0
  | .status => s.statusByte.setWidth 16
  | .tag => s.tag.setWidth 16
  | .ext => (BitVec.ofBool s.ext).setWidth 16
  | .addr => s.addr.setWidth 16
  | .nrd => s.nrd.setWidth 16
  | .cap => s.cap.setWidth 16
  | .inlen => s.inlen.setWidth 16
  | .tsSec => s.ts.sec.setWidth 16
  | .tsMin => s.ts.min.setWidth 16
  | .tsHour => s.ts.hour.setWidth 16
  | .tsDow => s.ts.dow.setWidth 16
  | .tsDom => s.ts.dom.setWidth 16
  | .tsMon => s.ts.mon.setWidth 16
  | .tsYear => s.ts.year
  | .rlen => s.rlen.setWidth 16
  | .otag => s.otag.setWidth 16
  | .oext => (BitVec.ofBool s.oext).setWidth 16
  | .onrd => s.onrd.setWidth 16
  | .otsSec => s.ots.sec.setWidth 16
  | .otsMin => s.ots.min.setWidth 16
  | .otsHour => s.ots.hour.setWidth 16
  | .otsDow => s.ots.dow.setWidth 16
  | .otsDom => s.ots.dom.setWidth 16
  | .otsMon => s.ots.mon.setWidth 16
  | .otsYear => s.ots.year

/-- A host write to a register: a read/write register takes the data's low bits (R23), a read-only one ignores it
(R24). CMD stores nothing (R29); the command it starts is `writeCommand`. -/
def State.writeReg (s : State) (r : Reg) (d : Half) : State :=
  match r with
  | .tag => { s with tag := d.setWidth 8 }
  | .ext => { s with ext := d.getLsbD 0 }
  | .addr => { s with addr := d.setWidth 8 }
  | .nrd => { s with nrd := d.setWidth 8 }
  | .cap => { s with cap := d.setWidth 9 }
  | .inlen => { s with inlen := d.setWidth 9 }
  | .tsSec => { s with ts := { s.ts with sec := d.setWidth 8 } }
  | .tsMin => { s with ts := { s.ts with min := d.setWidth 8 } }
  | .tsHour => { s with ts := { s.ts with hour := d.setWidth 8 } }
  | .tsDow => { s with ts := { s.ts with dow := d.setWidth 8 } }
  | .tsDom => { s with ts := { s.ts with dom := d.setWidth 8 } }
  | .tsMon => { s with ts := { s.ts with mon := d.setWidth 8 } }
  | .tsYear => { s with ts := { s.ts with year := d } }
  | .cmd => s
  | .status => s
  | .rlen => s
  | .otag => s
  | .oext => s
  | .onrd => s
  | .otsSec => s
  | .otsMin => s
  | .otsHour => s
  | .otsDow => s
  | .otsDom => s
  | .otsMon => s
  | .otsYear => s

/-- The data `HostRead(a)` returns (R21 to R24). -/
def State.hostRead (s : State) (a : HostAddr) : Half :=
  match locate a with
  | .buf n => (s.byteAt n).setWidth 16
  | .rdin i f => s.rdin[i].get f
  | .rdout i f => s.rdout[i].get f
  | .reg r => s.readReg r
  | .reserved => 0

/-- What `HostWrite(a, d)` stores (R23, R24); a write to RDOUT or a reserved address stores nothing. -/
def State.hostStore (s : State) (a : HostAddr) (d : Half) : State :=
  match locate a with
  | .buf n => s.memWrite n [d.setWidth 8]
  | .rdin i f => { s with rdin := s.rdin.set i (s.rdin[i].set f d) }
  | .rdout _ _ => s
  | .reg r => s.writeReg r d
  | .reserved => s

/-- A write of `d` to CMD performs the command of code `d[7:0]` (R29); an illegal code raises ILLEGAL_COMMAND (R225). -/
def writeCommand (d : Half) (s : State) : Host.Outcome State Fault Refusal :=
  match decodeCommand (d.extractLsb' 0 8) with
  | .ok i => exec i s
  | .error _ => .next (s.raise .illegalCommand)

/-- One host transaction (R21). -/
def transact (t : HostTxn) (s : State) : Host.Outcome State Fault Refusal :=
  match t with
  | .write a d => if locate a = .reg .cmd then writeCommand d s else .next (s.hostStore a d)
  | .read a => .next (s.answer (s.hostRead a))

/-- The one transaction a host may issue while BUSY = 1 (R260). -/
def HostTxn.pollsStatus : HostTxn → Bool
  | .read a => locate a = .reg .status
  | .write _ _ => false

/-- One input of the host: reset (R250), or a transaction word. A word that is no valid program word is refused (R100),
and so is a transaction that R260 does not define. -/
def perform (inp : HostInput) (s : State) : Host.Outcome State Fault Refusal :=
  match inp with
  | .reset => .next s.hostReset
  | .word w =>
    match decodeHtw w with
    | .error _ => .refused .invalidProgramWord
    | .ok t => if s.busy && !t.pollsStatus then .refused .transactionWhileBusy else transact t s

end Sys2Proof.Machine
end

