-- ==== Sys2Proof/Machine/Step.lean ====
section
/-! DEFINITION. One step of the machine: the host's next input (spec 10_state.md R21, R43; 70_reset_and_hazards.md
R252, R263). -/

namespace Sys2Proof.Machine

/-- One step per host transaction (R263): the next pending input is taken and performed. With none pending the block
waits and holds its state (R238, R252; DESIGN CHOICE, log 4). -/
def step (s : State) : Host.Outcome State Fault Refusal :=
  match s.pending with
  | [] => .next s
  | inp :: rest => perform inp { s with pending := rest }

/-- `s` with `HostWrite(CMD, w)` as the host's next transaction, so that the next step runs the command of code `w`
(DESIGN CHOICE, log 3). The block takes a command only when it is not busy (R260; DESIGN CHOICE, log 16). -/
def State.withFetchWord (s : State) (nbits w : Nat) : State :=
  { s with
    busy := false
    pending := .word (encodeHtw (.write 0x300 (BitVec.ofNat 16 (w % 2 ^ nbits)))) :: s.pending }

end Sys2Proof.Machine
end

