-- ==== Sys2Proof/Machine/Assembler.lean ====
section
/-! DEFINITION. The assembler form of host programs (spec 30_encoding.md R101): the text of a line, the transactions it
expands to, and their HTW32 words (R100). No rule of the block reads it (92 D23). -/

namespace Sys2Proof.Machine

/-! ## Names -/

/-- A register's name in a program (R101, R22). -/
def Reg.name : Reg → String
  | .cmd => "CMD"
  | .status => "STATUS"
  | .tag => "TAG"
  | .ext => "EXT"
  | .addr => "ADDR"
  | .nrd => "NRD"
  | .cap => "CAP"
  | .inlen => "INLEN"
  | .tsSec => "TS_SEC"
  | .tsMin => "TS_MIN"
  | .tsHour => "TS_HOUR"
  | .tsDow => "TS_DOW"
  | .tsDom => "TS_DOM"
  | .tsMon => "TS_MON"
  | .tsYear => "TS_YEAR"
  | .rlen => "RLEN"
  | .otag => "OTAG"
  | .oext => "OEXT"
  | .onrd => "ONRD"
  | .otsSec => "OTS_SEC"
  | .otsMin => "OTS_MIN"
  | .otsHour => "OTS_HOUR"
  | .otsDow => "OTS_DOW"
  | .otsDom => "OTS_DOM"
  | .otsMon => "OTS_MON"
  | .otsYear => "OTS_YEAR"

/-- A reading field's name in a program (R101, R27). -/
def Field.name : Field → String
  | .spd => "SPD"
  | .gmax => "GMAX"
  | .gmin => "GMIN"
  | .dir => "DIR"
  | .temp => "TEMP"
  | .pres => "PRES"
  | .hum => "HUM"
  | .volt => "VOLT"

/-- A command's mnemonic (R81). -/
def commandName : Instr → String
  | .tsPack => "TS_PACK"
  | .tsUnpack => "TS_UNPACK"
  | .rdEncode => "RD_ENCODE"
  | .rdDecode => "RD_DECODE"
  | .pktPack => "PKT_PACK"
  | .pktUnpack => "PKT_UNPACK"

/-- The register a word names. -/
def regOfName (w : List Char) : Option Reg := Reg.all.find? fun r => r.name.toList == w

/-- The field a word names. -/
def fieldOfName (w : List Char) : Option Field := Field.all.find? fun f => f.name.toList == w

/-- The command a word names. -/
def commandOfName (w : List Char) : Option Instr :=
  (commandTable.map (·.instr)).find? fun i => (commandName i).toList == w

/-! ## Expansion -/

/-- The host address of a target (R22, R27, R28). R101 leaves open what `BUF[n]` with `n` past 255, an entry past 31 or a
raw address past 12 bits names; the same sum is taken (DESIGN CHOICE, log 15). -/
def AsmTarget.address : AsmTarget → Nat
  | .reg r => r.address
  | .buf n => n
  | .rdin i f => 0x100 + 8 * i + f.index
  | .rdout i f => 0x200 + 8 * i + f.index
  | .raw a => a

/-- A target's address on the 12-bit port: an address that does not fit is taken mod 2^12, on which R101 is silent
(DESIGN CHOICE, log 15). -/
def AsmTarget.hostAddr (t : AsmTarget) : HostAddr := BitVec.ofNat 12 t.address

/-- `WR <target>, <value>` as a transaction (R101). A value that does not fit the 16 data bits is taken mod 2^16, on which
R101 is silent (DESIGN CHOICE, log 15). -/
def asmWrite (t : AsmTarget) (v : Nat) : HostTxn :=
  .write t.hostAddr (BitVec.ofNat 16 v)

/-- The transactions of a line, in order: one for WR and RD, the expansion for a pseudo-instruction (R101). It expands a
line that is not well formed too, with wrapped addresses and values, and a WRRD that has not eight values field by field
as far as both last (DESIGN CHOICE, log 15). -/
def AsmLine.expand : AsmLine → List HostTxn
  | .wr t v => [asmWrite t v]
  | .rd t _ => [.read t.hostAddr]
  | .command i => [asmWrite (.reg .cmd) (encodeCommand i).toNat]
  | .wrbuf a bs => bs.zipIdx.map fun bk => asmWrite (.buf (a + bk.2)) bk.1
  | .wrrd i vs => (Field.all.zip vs).map fun fv => asmWrite (.rdin i fv.1) fv.2
  | .wrts sec min hour dow dom mon year =>
    [asmWrite (.reg .tsSec) sec, asmWrite (.reg .tsMin) min, asmWrite (.reg .tsHour) hour,
     asmWrite (.reg .tsDow) dow, asmWrite (.reg .tsDom) dom, asmWrite (.reg .tsMon) mon,
     asmWrite (.reg .tsYear) year]

/-- The words of a program, one per transaction. It does not ask that a line is well formed (DESIGN CHOICE, log 15). -/
def assemble (lines : List AsmLine) : List Htw := lines.flatMap fun l => l.expand.map encodeHtw

/-- A program as the host's inputs (DESIGN CHOICE, log 3). -/
def programInputs (lines : List AsmLine) : List HostInput := (assemble lines).map .word

/-- The results a program's reads are annotated with, one per read, in order (R101). -/
def expectedAnswers (lines : List AsmLine) : List (Option Nat) :=
  lines.flatMap fun l =>
    match l with
    | .rd _ e => [e]
    | .wr _ _ => []
    | .command _ => []
    | .wrbuf _ _ => []
    | .wrrd _ _ => []
    | .wrts _ _ _ _ _ _ _ => []

/-! ## Text -/

/-- The tokens of a line. -/
inductive AsmToken where
  | word (w : List Char)
  | num (n : Nat)
  | sym (c : Char)
  deriving DecidableEq, Repr

/-- A digit's value in a base of at most 16. -/
def digitValue (base : Nat) (c : Char) : Option Nat :=
  let n := c.toNat
  let v :=
    if 48 ≤ n ∧ n ≤ 57 then n - 48
    else if 65 ≤ n ∧ n ≤ 70 then n - 55
    else if 97 ≤ n ∧ n ≤ 102 then n - 87
    else base
  if v < base then some v else none

/-- The number a digit list writes, most significant digit first. -/
def digitsValue (base : Nat) : Nat → List Char → Option Nat
  | acc, [] => some acc
  | acc, c :: cs =>
    match digitValue base c with
    | some v => digitsValue base (acc * base + v) cs
    | none => none

/-- A `<value>`: decimal or `0x` hex (R101), of any number of digits (DESIGN CHOICE, log 17). -/
def numberOf : List Char → Option Nat
  | [] => none
  | ['0', 'x'] => none
  | '0' :: 'x' :: ds => digitsValue 16 0 ds
  | ds => digitsValue 10 0 ds

/-- The characters of names and numbers. -/
def wordChar (c : Char) : Bool := c.isAlphanum || c == '_'

/-- The token of the characters gathered so far, last first; nothing where there are none. -/
def flushWord (acc : List Char) : List AsmToken :=
  match acc.reverse with
  | [] => []
  | w =>
    match numberOf w with
    | some n => [.num n]
    | none => [.word w]

/-- The tokens of a line's characters; spaces only separate (DESIGN CHOICE, log 17). -/
def tokensFrom : List Char → List Char → List AsmToken
  | acc, [] => flushWord acc
  | acc, c :: cs =>
    if wordChar c then tokensFrom (c :: acc) cs
    else if c == ' ' then flushWord acc ++ tokensFrom [] cs
    else flushWord acc ++ .sym c :: tokensFrom [] cs

/-- A `<target>` at the head of a token list, with the tokens after it (R101). R101 writes a raw address as `@0xNNN` and an
index as `n` or `i`; any number that `numberOf` reads stands in either place here, so `@783` and `@0x30F` name one
address (DESIGN CHOICE, log 17). -/
def parseTarget : List AsmToken → Option (AsmTarget × List AsmToken)
  | .sym '@' :: .num a :: rest => some (.raw a, rest)
  | .word w :: .sym '[' :: .num n :: .sym ']' :: .sym '.' :: .word f :: rest =>
    match fieldOfName f with
    | some fld =>
      if w == "RDIN".toList then some (.rdin n fld, rest)
      else if w == "RDOUT".toList then some (.rdout n fld, rest)
      else none
    | none => none
  | .word w :: .sym '[' :: .num n :: .sym ']' :: rest =>
    if w == "BUF".toList then some (.buf n, rest) else none
  | .word w :: rest => (regOfName w).map fun r => (.reg r, rest)
  | _ => none

/-- Numbers separated by commas, to the end of the line. -/
def parseNumbers : List AsmToken → Option (List Nat)
  | [.num n] => some [n]
  | .num n :: .sym ',' :: rest => (parseNumbers rest).map (n :: ·)
  | _ => none

/-- The expected result in what follows a line's `;`: `-> <value>` (R101), and any remark after it (DESIGN CHOICE,
log 17). -/
def parseExpected (cs : List Char) : Option Nat :=
  match tokensFrom [] cs with
  | .sym '-' :: .sym '>' :: .num n :: _ => some n
  | _ => none

/-- The line that tokens write, with the expected result read from its remark. -/
def parseTokens (expected : Option Nat) : List AsmToken → Option AsmLine
  | [] => none
  | .num _ :: _ => none
  | .sym _ :: _ => none
  | .word w :: rest =>
    if w == "WR".toList then
      match parseTarget rest with
      | some (t, [.sym ',', .num v]) => some (.wr t v)
      | _ => none
    else if w == "RD".toList then
      match parseTarget rest with
      | some (t, []) => some (.rd t expected)
      | _ => none
    else if w == "WRBUF".toList then
      match parseNumbers rest with
      | some (a :: b :: bs) => some (.wrbuf a (b :: bs))
      | _ => none
    else if w == "WRRD".toList then
      match parseNumbers rest with
      | some [i, v0, v1, v2, v3, v4, v5, v6, v7] => some (.wrrd i [v0, v1, v2, v3, v4, v5, v6, v7])
      | _ => none
    else if w == "WRTS".toList then
      match parseNumbers rest with
      | some [sec, min, hour, dow, dom, mon, year] => some (.wrts sec min hour dow dom mon year)
      | _ => none
    else
      match rest with
      | [] => (commandOfName w).map .command
      | _ => none

/-- The line that a text writes (R101), or none where it is no line of the assembler's form. Whether the numbers are in
range is for `AsmLine.wellFormed` to say (DESIGN CHOICE, log 15). -/
def parseLine (text : String) : Option AsmLine :=
  let code := text.toList.takeWhile (· != ';')
  let remark := (text.toList.dropWhile (· != ';')).drop 1
  parseTokens (parseExpected remark) (tokensFrom [] code)

end Sys2Proof.Machine
end

