-- ==== Sys2Proof/Safety.lean ====
section
/-! DEFINITION. What counts as a safe run: the invariant that the rules give every reachable state, when the block can
take the host's next input, and when a command reports success. -/

namespace Sys2Proof.Machine

/-- The bounds of a decoded timestamp: every field inside its encoded width, day-of-week 0, and in the compact form no
seconds and 11 bits of year (30_encoding.md R86, R89; 40_timestamp.md R125, R126). -/
structure Timestamp.Decoded (t : Timestamp) (e : Bool) : Prop where
  min_lt : t.min.toNat < 64
  hour_lt : t.hour.toNat < 32
  dow_zero : t.dow = 0
  dom_lt : t.dom.toNat < 32
  mon_lt : t.mon.toNat < 16
  sec_lt : t.sec.toNat < 64
  year_lt : t.year.toNat < 8192
  compact_sec : e = false → t.sec = 0
  compact_year : e = false → t.year.toNat < 2048

/-- The invariant of the block. -/
structure State.Inv (s : State) : Prop where
  /-- BUF is in canonical form, every offset inside it (R26). -/
  buf_wf : s.buf.wf
  /-- The host never observes BUSY = 1 (R30, R260). -/
  idle : s.busy = false
  /-- FOVF = 1 implies ERR = OK (R224). -/
  fovf_ok : s.fovf = true → s.err = .ok
  /-- RLEN is 0 after an error (R38, R226). -/
  error_rlen : s.err ≠ .ok → s.rlen = 0
  /-- RLEN never exceeds the buffer (R38, R97). -/
  rlen_le : s.rlen.toNat ≤ Config.bufSize
  /-- ONRD is 0..31 (R41). -/
  onrd_le : s.onrd.toNat ≤ 31
  /-- OTAG is its reset value or a tag with a view (R39, R190). -/
  otag_view : s.otag = 0 ∨ (viewOf s.otag).isSome
  /-- OTS holds a timestamp that the form OEXT names can carry (R42, R89). -/
  ots_decoded : s.ots.Decoded s.oext

/-- The next input, if any, is reset or a valid program word (R100). -/
def State.nextInputValid (s : State) : Prop :=
  ∀ w rest, s.pending = .word w :: rest → htwWellFormed w = true

/-- No step from here stops. -/
def State.Safe (s : State) : Prop := ∃ t, step s = .next t

/-- The outcome is a next state in which the command reported success. -/
def Succeeds (o : Host.Outcome State Fault Refusal) : Prop := ∃ t, o = .next t ∧ t.err = .ok

/-- The outcome is the state that the error `e` leaves: `s` with ERR, FOVF and RLEN written (R226). -/
def Raises (s : State) (e : Err) (o : Host.Outcome State Fault Refusal) : Prop :=
  o = .next { s with err := e, fovf := false, rlen := 0 }

end Sys2Proof.Machine
end

