-- ==== Sys2Proof/Certificates/Slice0/Obligations.lean ====
section
/-! DEFINITION. The statements about the model, in the order of the spec's files. Each docstring names the rules; the
frame of a command is the record equality in its statement, together with its clause on the bytes of BUF. -/

open Sys2Proof Sys2Proof.Machine

/-! ## Encodings -/

/-- R82 with R81's code map and R83's illegal codes. -/
def Obligations.CommandDecodingIsFullCompare : Prop :=
  (∀ op i, decodeCommand op = .ok i ↔
    (op = 0x01#8 ∧ i = .tsPack) ∨ (op = 0x02#8 ∧ i = .tsUnpack) ∨ (op = 0x03#8 ∧ i = .rdEncode) ∨
    (op = 0x04#8 ∧ i = .rdDecode) ∨ (op = 0x05#8 ∧ i = .pktPack) ∨ (op = 0x06#8 ∧ i = .pktUnpack)) ∧
  (∀ op : Byte, decodeCommand op = .error (.illegalCommand op) ↔ op.toNat = 0 ∨ 7 ≤ op.toNat)

/-- R81: the bytes written out for each row, and nothing else, decode to that row's command. -/
def Obligations.CommandBytesRoundTrip : Prop :=
  (∀ i : Instr, i.wellFormed = true → ∀ rest, decode (encode i ++ rest) = .ok (i, rest)) ∧
  (∀ bytes i rest, decode bytes = .ok (i, rest) → bytes = encode i ++ rest)

/-- R100: every transaction has one valid word, and every valid word is the word of one transaction. -/
def Obligations.HostWordRoundTrip : Prop :=
  (∀ t : HostTxn, decodeHtw (encodeHtw t) = .ok t) ∧
  (∀ w t, decodeHtw w = .ok t → encodeHtw t = w) ∧
  (∀ w, htwWellFormed w = true ↔ ∃ t, decodeHtw w = .ok t)

/-- R100: the fields of a word, and the words that are refused. -/
def Obligations.HostWordFieldsAndRefusal : Prop :=
  ∀ w : Htw,
    ((w.toNat / 2 ^ 28 % 8 ≠ 0 ∨ (w.toNat < 2 ^ 31 ∧ w.toNat % 2 ^ 16 ≠ 0)) →
      ∀ s : State, perform (.word w) s = .refused .invalidProgramWord) ∧
    (w.toNat / 2 ^ 28 % 8 = 0 → 2 ^ 31 ≤ w.toNat →
      decodeHtw w = .ok (.write (BitVec.ofNat 12 (w.toNat / 2 ^ 16)) (BitVec.ofNat 16 w.toNat))) ∧
    (w.toNat / 2 ^ 28 % 8 = 0 → w.toNat < 2 ^ 31 → w.toNat % 2 ^ 16 = 0 →
      decodeHtw w = .ok (.read (BitVec.ofNat 12 (w.toNat / 2 ^ 16))))

/-- R81, R100 (95_test_vectors.md section 3): command bytes and program words written out from their encodings. -/
def Obligations.WrittenOutWordsDecode : Prop :=
  decode [0x01#8] = .ok (.tsPack, []) ∧ decode [0x04#8] = .ok (.rdDecode, []) ∧
  decode [0x06#8] = .ok (.pktUnpack, []) ∧ decode [0x00#8] = .error (.illegalCommand 0x00#8) ∧
  decodeHtw 0x83060100#32 = .ok (.write 0x306#12 0x0100#16) ∧
  decodeHtw 0x83000005#32 = .ok (.write 0x300#12 0x0005#16) ∧
  decodeHtw 0x03010000#32 = .ok (.read 0x301#12)

/-- R101: the expansions of the pseudo-instructions. For an entry or a value out of range, on which R101 is silent, the
clauses on WRRD, WRTS and the bytes of WRBUF rest on the model's choice to wrap (log 15). -/
def Obligations.PseudoInstructionsExpand : Prop :=
  (∀ i : Instr, (AsmLine.command i).expand = [.write 0x300#12 ((encodeCommand i).setWidth 16)]) ∧
  (∀ a bytes, (AsmLine.wrbuf a bytes).expand.length = bytes.length) ∧
  (∀ a bytes, a + bytes.length ≤ 256 → ∀ k, ∀ h : k < bytes.length,
    (AsmLine.wrbuf a bytes).expand[k]? =
      some (.write (BitVec.ofNat 12 (a + k)) (BitVec.ofNat 16 bytes[k]))) ∧
  (∀ i v0 v1 v2 v3 v4 v5 v6 v7, (AsmLine.wrrd i [v0, v1, v2, v3, v4, v5, v6, v7]).expand =
    [.write (BitVec.ofNat 12 (0x100 + 8 * i)) (BitVec.ofNat 16 v0),
     .write (BitVec.ofNat 12 (0x101 + 8 * i)) (BitVec.ofNat 16 v1),
     .write (BitVec.ofNat 12 (0x102 + 8 * i)) (BitVec.ofNat 16 v2),
     .write (BitVec.ofNat 12 (0x103 + 8 * i)) (BitVec.ofNat 16 v3),
     .write (BitVec.ofNat 12 (0x104 + 8 * i)) (BitVec.ofNat 16 v4),
     .write (BitVec.ofNat 12 (0x105 + 8 * i)) (BitVec.ofNat 16 v5),
     .write (BitVec.ofNat 12 (0x106 + 8 * i)) (BitVec.ofNat 16 v6),
     .write (BitVec.ofNat 12 (0x107 + 8 * i)) (BitVec.ofNat 16 v7)]) ∧
  (∀ sec min hour dow dom mon year, (AsmLine.wrts sec min hour dow dom mon year).expand =
    [.write 0x308#12 (BitVec.ofNat 16 sec), .write 0x309#12 (BitVec.ofNat 16 min),
     .write 0x30A#12 (BitVec.ofNat 16 hour), .write 0x30B#12 (BitVec.ofNat 16 dow),
     .write 0x30C#12 (BitVec.ofNat 16 dom), .write 0x30D#12 (BitVec.ofNat 16 mon),
     .write 0x30E#12 (BitVec.ofNat 16 year)])

/-! ## Steps -/

/-- R21, R43, R263: a step performs the host's next input, and takes it from what the host holds. That the host's
inputs stand in the state is the model's choice (log 3). -/
def Obligations.StepPerformsTheNextInput : Prop :=
  ∀ (s : State) inp rest, s.pending = inp :: rest → step s = perform inp { s with pending := rest }

/-- R29: a write of `d` to CMD runs the command that `d[7:0]` decodes to, on the state as it stands. -/
def Obligations.StepRunsDecodedCommand : Prop :=
  ∀ (s : State) w rest d i, s.pending = .word w :: rest → s.busy = false →
    decodeHtw w = .ok (.write 0x300#12 d) → decode [d.setWidth 8] = .ok (i, []) → i.wellFormed = true →
    step s = exec i { s with pending := rest }

/-- The model's own convention (log 3): `withFetchWord` places a command where the next step takes it. -/
def Obligations.FetchWordRunsTableWord : Prop :=
  ∀ (s : State) w i, decodeTableWord 8 w = some i → step (s.withFetchWord 8 w) = exec i { s with busy := false }

/-- R83, R225: an illegal code raises ILLEGAL_COMMAND, which writes ERR, FOVF and RLEN and changes nothing else. -/
def Obligations.IllegalCodeRaisesIllegalCommand : Prop :=
  ∀ (s : State) (d : Half), (d.toNat % 256 = 0 ∨ 7 ≤ d.toNat % 256) →
    transact (.write 0x300#12 d) s = .next { s with err := .illegalCommand, fovf := false, rlen := 0 }

/-- R21, R24, R70: a host read returns its data and changes nothing of the block; the answer is the model's own
field (log 5). -/
def Obligations.HostReadStepOnlyAnswers : Prop :=
  ∀ (s : State) w rest a, s.pending = .word w :: rest → s.busy = false → decodeHtw w = .ok (.read a) →
    step s = .next { s with pending := rest, answers := s.answers ++ [s.hostRead a] }

/-- R21, R70: a host write anywhere but to CMD only stores. -/
def Obligations.HostWriteStepOnlyStores : Prop :=
  ∀ (s : State) w rest a d, s.pending = .word w :: rest → s.busy = false → decodeHtw w = .ok (.write a d) →
    a ≠ 0x300#12 → step s = .next (State.hostStore { s with pending := rest } a d)

/-- R238, R252; that waiting is a step is the model's choice (log 4). -/
def Obligations.BlockWaitsForTheHost : Prop :=
  ∀ s : State, s.pending = [] → step s = .next s

/-- R260's rule for an implementation that is not atomic: while BUSY = 1 only a read of STATUS has a meaning. -/
def Obligations.BusyAdmitsOnlyStatusReads : Prop :=
  ∀ (s : State) w rest t, s.pending = .word w :: rest → s.busy = true → decodeHtw w = .ok t →
    (t ≠ .read 0x301#12 → step s = .refused .transactionWhileBusy) ∧
    (t = .read 0x301#12 → ∃ v : Half, v.getLsbD 7 = true ∧
      step s = .next { s with pending := rest, answers := s.answers ++ [v] })

/-! ## Reset -/

/-- R250: reset, at any point, sets every register to 0; and the machine starts with every register 0. -/
def Obligations.ResetClearsEveryRegister : Prop :=
  (∀ s : State, ∃ t, perform .reset s = .next t ∧ (∀ r : Reg, t.readReg r = 0) ∧
    t.err = .ok ∧ t.fovf = false ∧ t.busy = false ∧ t.tag = 0 ∧ t.ext = false ∧ t.addr = 0 ∧ t.nrd = 0 ∧
    t.cap = 0 ∧ t.inlen = 0 ∧ t.ts = ⟨0, 0, 0, 0, 0, 0, 0⟩ ∧ t.rlen = 0 ∧ t.otag = 0 ∧ t.oext = false ∧
    t.onrd = 0 ∧ t.ots = ⟨0, 0, 0, 0, 0, 0, 0⟩) ∧
  ∀ r : Reg, State.reset.readReg r = 0

/-- R251: after reset every memory location holds its free draw, and no command makes a new draw. Nothing here says
what a draw is (log 1). -/
def Obligations.ResetDrawsEveryMemoryLocation : Prop :=
  (∀ s : State, ∃ t, perform .reset s = .next t ∧ t.draws = s.draws + 1 ∧
    (∀ a, t.byteAt a = Config.bufAtReset t.draws a) ∧
    (∀ (i : Fin 32) f, t.rdin[i].get f = Config.rdinAtReset t.draws (8 * i.val + f.index)) ∧
    (∀ (i : Fin 32) f, t.rdout[i].get f = Config.rdoutAtReset t.draws (8 * i.val + f.index))) ∧
  ∀ i (s t : State), exec i s = .next t → t.draws = s.draws

/-! ## The host port -/

/-- R22 with R23 and R24: what a read of each row returns. -/
def Obligations.HostReadsTheAddressMap : Prop :=
  ∀ s : State,
    (∀ a : Nat, a < 0x100 → s.hostRead (BitVec.ofNat 12 a) = (s.byteAt a).setWidth 16) ∧
    (∀ (i : Fin 32) f, s.hostRead (BitVec.ofNat 12 (0x100 + 8 * i.val + f.index)) = s.rdin[i].get f) ∧
    (∀ (i : Fin 32) f, s.hostRead (BitVec.ofNat 12 (0x200 + 8 * i.val + f.index)) = s.rdout[i].get f) ∧
    s.hostRead 0x300#12 = 0 ∧ s.hostRead 0x301#12 = s.statusByte.setWidth 16 ∧
    s.hostRead 0x302#12 = s.tag.setWidth 16 ∧ s.hostRead 0x303#12 = (if s.ext then 1 else 0) ∧
    s.hostRead 0x304#12 = s.addr.setWidth 16 ∧ s.hostRead 0x305#12 = s.nrd.setWidth 16 ∧
    s.hostRead 0x306#12 = s.cap.setWidth 16 ∧ s.hostRead 0x307#12 = s.inlen.setWidth 16 ∧
    s.hostRead 0x308#12 = s.ts.sec.setWidth 16 ∧ s.hostRead 0x309#12 = s.ts.min.setWidth 16 ∧
    s.hostRead 0x30A#12 = s.ts.hour.setWidth 16 ∧ s.hostRead 0x30B#12 = s.ts.dow.setWidth 16 ∧
    s.hostRead 0x30C#12 = s.ts.dom.setWidth 16 ∧ s.hostRead 0x30D#12 = s.ts.mon.setWidth 16 ∧
    s.hostRead 0x30E#12 = s.ts.year ∧ s.hostRead 0x310#12 = s.rlen.setWidth 16 ∧
    s.hostRead 0x311#12 = s.otag.setWidth 16 ∧ s.hostRead 0x312#12 = (if s.oext then 1 else 0) ∧
    s.hostRead 0x313#12 = s.onrd.setWidth 16 ∧
    s.hostRead 0x318#12 = s.ots.sec.setWidth 16 ∧ s.hostRead 0x319#12 = s.ots.min.setWidth 16 ∧
    s.hostRead 0x31A#12 = s.ots.hour.setWidth 16 ∧ s.hostRead 0x31B#12 = s.ots.dow.setWidth 16 ∧
    s.hostRead 0x31C#12 = s.ots.dom.setWidth 16 ∧ s.hostRead 0x31D#12 = s.ots.mon.setWidth 16 ∧
    s.hostRead 0x31E#12 = s.ots.year ∧
    ∀ a : HostAddr, (a = 0x30F#12 ∨ (0x314 ≤ a.toNat ∧ a.toNat ≤ 0x317) ∨ 0x31F ≤ a.toNat) → s.hostRead a = 0

/-- R30, R220: the bits of STATUS, with ERR codes 0 to 4 and bits [6:4] reading 0. -/
def Obligations.StatusReadsItsFields : Prop :=
  ∀ s : State,
    (s.hostRead 0x301#12).toNat =
      (match s.err with
        | .ok => 0
        | .unsupportedType => 1
        | .bufferOverflow => 2
        | .truncatedInput => 3
        | .illegalCommand => 4) + (if s.fovf then 8 else 0) + (if s.busy then 128 else 0)

/-- R24: reserved addresses, read-only targets, CMD's value, and reads without side effect: a read changes at most the
model's own list of answers, which is no state of the block (log 5). -/
def Obligations.ReservedAndReadOnlyAddresses : Prop :=
  ∀ (s : State) (a : HostAddr) (d : Half),
    ((a = 0x30F#12 ∨ (0x314 ≤ a.toNat ∧ a.toNat ≤ 0x317) ∨ 0x31F ≤ a.toNat) →
      s.hostRead a = 0 ∧ transact (.write a d) s = .next s) ∧
    (((0x200 ≤ a.toNat ∧ a.toNat ≤ 0x2FF) ∨ a = 0x301#12 ∨ (0x310 ≤ a.toNat ∧ a.toNat ≤ 0x313) ∨
        (0x318 ≤ a.toNat ∧ a.toNat ≤ 0x31E)) →
      transact (.write a d) s = .next s) ∧
    s.hostRead 0x300#12 = 0 ∧
    ∃ t, transact (.read a) s = .next t ∧ t = { s with answers := t.answers }

/-- R23 with R72: a write to a read/write target of width `w` stores `d[w-1:0]`, which the next read returns
zero-extended, and it changes what no other address reads. -/
def Obligations.HostWriteThenRead : Prop :=
  ∀ (s : State) (a : HostAddr) (d : Half) (w : Nat),
    ((a.toNat < 0x100 ∧ w = 8) ∨ (0x100 ≤ a.toNat ∧ a.toNat < 0x200 ∧ w = 16) ∨
      (a.toNat ∈ [0x302, 0x304, 0x305, 0x308, 0x309, 0x30A, 0x30B, 0x30C, 0x30D] ∧ w = 8) ∨
      (a = 0x303#12 ∧ w = 1) ∨ (a.toNat ∈ [0x306, 0x307] ∧ w = 9) ∨ (a = 0x30E#12 ∧ w = 16)) →
    ∃ t, transact (.write a d) s = .next t ∧ (t.hostRead a).toNat = d.toNat % 2 ^ w ∧
      ∀ b, b ≠ a → t.hostRead b = s.hostRead b

/-! ## The Timestamp Codec -/

/-- R88: the bytes of a timestamp, in numbers. -/
def Obligations.TimestampBytesLayout : Prop :=
  ∀ (ts : Timestamp) (e : Bool),
    (tsBytes ts e).map BitVec.toNat =
      [ts.hour.toNat % 4 * 64 + ts.min.toNat % 64,
       ts.dom.toNat % 32 * 8 + ts.hour.toNat / 4 % 8,
       ts.year.toNat % 16 * 16 + ts.mon.toNat % 16,
       (if e then 128 else 0) + ts.year.toNat / 16 % 128] ++
      (if e then [ts.year.toNat / 2048 % 4 * 64 + ts.sec.toNat % 64] else [])

/-- R123: FieldOverflow is clear exactly when every field of the chosen form fits its encoded width. -/
def Obligations.FieldOverflowIsDroppedBits : Prop :=
  ∀ (ts : Timestamp) (e : Bool),
    tsOvf ts e = false ↔
      ts.min.toNat < 64 ∧ ts.hour.toNat < 32 ∧ ts.dom.toNat < 32 ∧ ts.mon.toNat < 16 ∧
      (e = false → ts.year.toNat < 2048) ∧ (e = true → ts.year.toNat < 8192 ∧ ts.sec.toNat < 64)

/-- R126, which the spec derives from R88 and R89: the projection, in numbers. -/
def Obligations.TimestampProjection : Prop :=
  ∀ (ts : Timestamp) (e : Bool),
    (tsProj ts e).sec.toNat = (if e then ts.sec.toNat % 64 else 0) ∧
    (tsProj ts e).min.toNat = ts.min.toNat % 64 ∧ (tsProj ts e).hour.toNat = ts.hour.toNat % 32 ∧
    (tsProj ts e).dow = 0 ∧ (tsProj ts e).dom.toNat = ts.dom.toNat % 32 ∧
    (tsProj ts e).mon.toNat = ts.mon.toNat % 16 ∧
    (tsProj ts e).year.toNat = ts.year.toNat % (if e then 8192 else 2048)

/-- R127, which the spec derives from R120, R121 and R126: unpacking a packed timestamp gives its
projection, and the timestamp itself exactly when nothing is dropped. -/
def Obligations.TimestampRoundTrip : Prop :=
  ∀ (ts : Timestamp) (e : Bool),
    tsUnpack (tsBytes ts e) = ⟨tsProj ts e, e, if e then 5 else 4⟩ ∧
    ((tsUnpack (tsBytes ts e)).ts = ts ↔ tsOvf ts e = false ∧ ts.dow = 0 ∧ (e = true ∨ ts.sec = 0))

/-- R128, which the spec derives from R88 and R89: packing an unpacked timestamp gives the same bytes. -/
def Obligations.TimestampInverse : Prop :=
  ∀ (b0 b1 b2 b3 b4 : Byte),
    (b3.getLsbD 7 = false → tsBytes (tsUnpack [b0, b1, b2, b3]).ts false = [b0, b1, b2, b3]) ∧
    (b3.getLsbD 7 = true → tsBytes (tsUnpack [b0, b1, b2, b3, b4]).ts true = [b0, b1, b2, b3, b4])

/-- R122: TS_PACK, its result, its frame and its error. -/
def Obligations.TsPackMeaning : Prop :=
  ∀ s : State,
    (s.addr.toNat + (if s.ext then 5 else 4) ≤ min s.cap.toNat 256 →
      ∃ t, exec .tsPack s = .next t ∧
        t = { s with buf := t.buf, rlen := if s.ext then 5 else 4, err := .ok, fovf := tsOvf s.ts s.ext } ∧
        t.memRead s.addr.toNat (if s.ext then 5 else 4) = tsBytes s.ts s.ext ∧
        ∀ b, (b < s.addr.toNat ∨ s.addr.toNat + (if s.ext then 5 else 4) ≤ b) → t.byteAt b = s.byteAt b) ∧
    (min s.cap.toNat 256 < s.addr.toNat + (if s.ext then 5 else 4) →
      Raises s .bufferOverflow (exec .tsPack s))

/-- R124, R125: TS_UNPACK with R89's field extraction in numbers, its frame and its errors. -/
def Obligations.TsUnpackMeaning : Prop :=
  ∀ s : State, ∀ b : Nat → Nat, (∀ k, b k = (s.byteAt (s.addr.toNat + k)).toNat) →
    (min s.inlen.toNat 256 < s.addr.toNat + 4 → Raises s .truncatedInput (exec .tsUnpack s)) ∧
    (s.addr.toNat + 4 ≤ min s.inlen.toNat 256 → 128 ≤ b 3 → min s.inlen.toNat 256 < s.addr.toNat + 5 →
      Raises s .truncatedInput (exec .tsUnpack s)) ∧
    (s.addr.toNat + 4 ≤ min s.inlen.toNat 256 → (128 ≤ b 3 → s.addr.toNat + 5 ≤ min s.inlen.toNat 256) →
      ∃ t, exec .tsUnpack s = .next t ∧
        t = { s with ots := t.ots, oext := decide (128 ≤ b 3), rlen := if 128 ≤ b 3 then 5 else 4,
                     err := .ok, fovf := false } ∧
        t.ots.min.toNat = b 0 % 64 ∧ t.ots.hour.toNat = b 0 / 64 + b 1 % 8 * 4 ∧ t.ots.dow = 0 ∧
        t.ots.dom.toNat = b 1 / 8 ∧ t.ots.mon.toNat = b 2 % 16 ∧
        t.ots.sec.toNat = (if 128 ≤ b 3 then b 4 % 64 else 0) ∧
        t.ots.year.toNat = b 2 / 16 + b 3 % 128 * 16 + (if 128 ≤ b 3 then b 4 / 64 * 2048 else 0))

/-! ## The Reading Codec -/

/-- R90, R150, R158: the tag alone selects the view; the widths; every other tag is the error. -/
def Obligations.TagSelectsView : Prop :=
  (∀ tag, viewOf tag = some .full ↔ tag = 0x02#8) ∧ (∀ tag, viewOf tag = some .wind ↔ tag = 0x03#8) ∧
  (∀ tag, viewOf tag = some .env ↔ tag = 0x04#8) ∧
  (∀ v : View, v.rw = 2 * v.fields.length) ∧ View.full.rw = 16 ∧ View.wind.rw = 8 ∧ View.env.rw = 8 ∧
  (∀ tag r, encodeReading tag r =
    match viewOf tag with
    | some v => .ok (rdEncode v r)
    | none => .error .unsupportedType) ∧
  (∀ tag s, decodeReading tag s =
    match viewOf tag with
    | some v => .ok (rdDecode v s, v.rw)
    | none => .error .unsupportedType)

/-- R152, R153, R154: the bytes of the three packers, written out. -/
def Obligations.PackersWriteFieldsLowByteFirst : Prop :=
  ∀ r : Reading,
    (packWind r).map BitVec.toNat =
      [r.spd.toNat % 256, r.spd.toNat / 256, r.gmax.toNat % 256, r.gmax.toNat / 256,
       r.gmin.toNat % 256, r.gmin.toNat / 256, r.dir.toNat % 256, r.dir.toNat / 256] ∧
    (packEnv r).map BitVec.toNat =
      [r.temp.toNat % 256, r.temp.toNat / 256, r.pres.toNat % 256, r.pres.toNat / 256,
       r.hum.toNat % 256, r.hum.toNat / 256, r.volt.toNat % 256, r.volt.toNat / 256] ∧
    packFull r = packWind r ++ packEnv r ∧
    (packFull r).length = 16 ∧ (packWind r).length = 8 ∧ (packEnv r).length = 8

/-- R157: the three decoders on a list that holds the record, field by field, and the bytes they consume. -/
def Obligations.UnpackersReadTheirOffsets : Prop :=
  ∀ (s : List Byte), ∀ w : Nat → Half, (∀ k, w k = s.getD (k + 1) 0 ++ s.getD k 0) →
    (8 ≤ s.length → unpackWind s = (⟨w 0, w 2, w 4, w 6, 0, 0, 0, 0⟩, 8)) ∧
    (8 ≤ s.length → unpackEnv s = (⟨0, 0, 0, 0, w 0, w 2, w 4, w 6⟩, 8)) ∧
    (16 ≤ s.length → unpackFull s = (⟨w 0, w 2, w 4, w 6, w 8, w 10, w 12, w 14⟩, 16))

/-- R164, which the spec derives from R151, R155 and R156: decoding an encoded reading gives its projection. -/
def Obligations.ReadingRoundTrip : Prop :=
  ∀ (v : View) (r : Reading),
    rdDecode v (rdEncode v r) = project r v ∧ (rdEncode v r).length = v.rw ∧
    ∀ f, (project r v).get f = if f ∈ v.fields then r.get f else 0

/-- R165, which the spec derives from R151 and R155: encoding a decoded record gives the same bytes. -/
def Obligations.ReadingInverse : Prop :=
  ∀ (v : View) (s : List Byte), s.length = v.rw → rdEncode v (rdDecode v s) = s

/-- R14, by general knowledge (93 G1): the temperature a reader takes is the two's-complement value. -/
def Obligations.TemperatureIsTwosComplement : Prop :=
  ∀ r : Reading, r.tempValue = r.temp.toInt

/-- R160: RD_ENCODE, its result, its frame and its errors in order. -/
def Obligations.RdEncodeMeaning : Prop :=
  ∀ s : State,
    (viewOf s.tag = none → Raises s .unsupportedType (exec .rdEncode s)) ∧
    ∀ v, viewOf s.tag = some v →
      (min s.cap.toNat 256 < s.addr.toNat + v.rw → Raises s .bufferOverflow (exec .rdEncode s)) ∧
      (s.addr.toNat + v.rw ≤ min s.cap.toNat 256 →
        ∃ t, exec .rdEncode s = .next t ∧
          t = { s with buf := t.buf, rlen := BitVec.ofNat 9 v.rw, err := .ok, fovf := false } ∧
          t.memRead s.addr.toNat v.rw = rdEncode v s.rdin[0] ∧
          ∀ b, (b < s.addr.toNat ∨ s.addr.toNat + v.rw ≤ b) → t.byteAt b = s.byteAt b)

/-- R162: RD_DECODE, its result, its frame and its errors in order. -/
def Obligations.RdDecodeMeaning : Prop :=
  ∀ s : State,
    (viewOf s.tag = none → Raises s .unsupportedType (exec .rdDecode s)) ∧
    ∀ v, viewOf s.tag = some v →
      (min s.inlen.toNat 256 < s.addr.toNat + v.rw → Raises s .truncatedInput (exec .rdDecode s)) ∧
      (s.addr.toNat + v.rw ≤ min s.inlen.toNat 256 →
        ∃ t, exec .rdDecode s = .next t ∧
          t = { s with rdout := t.rdout, rlen := BitVec.ofNat 9 v.rw, err := .ok, fovf := false } ∧
          (∀ k, ∀ h : k < v.fields.length, (t.rdout[0].get v.fields[k]).toNat =
            (s.byteAt (s.addr.toNat + 2 * k)).toNat + (s.byteAt (s.addr.toNat + 2 * k + 1)).toNat * 256) ∧
          (∀ f, f ∉ v.fields → t.rdout[0].get f = 0) ∧
          ∀ i : Fin 32, i ≠ 0 → t.rdout[i] = s.rdout[i])

/-! ## The Packet Framer -/

/-- R95, and R180 which the spec derives from it: the layout of a packet. R180 has `v = View(tag)`; for any other tag the
statement rests on the model's choice (log 21). -/
def Obligations.PacketBytesLayout : Prop :=
  ∀ tag v ts e rs, 2 + (if e then 5 else 4) + rs.length * v.rw ≤ 256 →
    (pktBytes tag v ts e rs).length = 2 + (if e then 5 else 4) + rs.length * v.rw ∧
    (pktBytes tag v ts e rs)[0]? = some tag ∧
    ((pktBytes tag v ts e rs)[1]?.map BitVec.toNat) = some (1 + (if e then 5 else 4) + rs.length * v.rw) ∧
    ((pktBytes tag v ts e rs).drop 2).take (if e then 5 else 4) = tsBytes ts e ∧
    ∀ i, ∀ h : i < rs.length,
      ((pktBytes tag v ts e rs).drop (2 + (if e then 5 else 4) + i * v.rw)).take v.rw = rdEncode v rs[i]

/-- R181, which the spec derives from R180 and R45: the framer's sequence, whatever its placeholder, leaves exactly the
packet in BUF, and its cursor ends at the packet's size. For a tag whose view is not `v` it rests on the model's choice
(log 21). -/
def Obligations.FramerSequenceWritesThePacket : Prop :=
  ∀ (buf : Memory) tag placeholder v ts e rs, buf.wf → 2 + (if e then 5 else 4) + rs.length * v.rw ≤ 256 →
    framerSequence buf tag placeholder v ts e rs =
      ⟨buf.writeList 0 (pktBytes tag v ts e rs), 2 + (if e then 5 else 4) + rs.length * v.rw⟩

/-- R183: PKT_PACK, its result, its frame and its errors in order. -/
def Obligations.PktPackMeaning : Prop :=
  ∀ s : State,
    (viewOf s.tag = none → Raises s .unsupportedType (exec .pktPack s)) ∧
    ∀ v total, viewOf s.tag = some v → total = 2 + (if s.ext then 5 else 4) + s.nrd.toNat * v.rw →
      (min s.cap.toNat 256 < total → Raises s .bufferOverflow (exec .pktPack s)) ∧
      (total ≤ min s.cap.toNat 256 →
        ∃ t, exec .pktPack s = .next t ∧
          t = { s with buf := t.buf, rlen := BitVec.ofNat 9 total, err := .ok, fovf := tsOvf s.ts s.ext } ∧
          t.memRead 0 total = pktBytes s.tag v s.ts s.ext (s.rdin.toList.take s.nrd.toNat) ∧
          ∀ b, total ≤ b → t.byteAt b = s.byteAt b)

/-- R185 with the sizes of R97, both of which the spec derives: the reading counts PKT_PACK accepts, the size of the
packet with the largest count, and that RDIN holds every reading PKT_PACK reads. -/
def Obligations.LargestReadingCounts : Prop :=
  ∀ (s : State) v, viewOf s.tag = some v →
    (Succeeds (exec .pktPack s) → s.nrd.toNat * v.rw ≤ 250 ∧ s.nrd.toNat ≤ 31) ∧
    (256 ≤ s.cap.toNat →
      (Succeeds (exec .pktPack s) ↔ s.nrd.toNat ≤ if v = .full then 15 else 31)) ∧
    (256 ≤ s.cap.toNat → s.nrd.toNat = (if v = .full then 15 else 31) →
      ∃ t, exec .pktPack s = .next t ∧ t.err = .ok ∧
        t.rlen.toNat = (if v = .full then 246 else 254) + if s.ext then 1 else 0)

/-- R190, R191, R192: PKT_UNPACK, its checks in order, its result and its frame. -/
def Obligations.PktUnpackMeaning : Prop :=
  ∀ (s : State) (inle len tsw : Nat), inle = min s.inlen.toNat 256 → len = (s.byteAt 1).toNat →
    tsw = (if (s.byteAt 5).getLsbD 7 then 5 else 4) →
    (inle < 2 → Raises s .truncatedInput (exec .pktUnpack s)) ∧
    (2 ≤ inle → viewOf (s.byteAt 0) = none → Raises s .unsupportedType (exec .pktUnpack s)) ∧
    ∀ v, 2 ≤ inle → viewOf (s.byteAt 0) = some v →
      ((len < 5 ∨ inle < len + 1 ∨ len < 1 + tsw ∨ (len - 1 - tsw) % v.rw ≠ 0) →
        Raises s .truncatedInput (exec .pktUnpack s)) ∧
      (5 ≤ len → len + 1 ≤ inle → 1 + tsw ≤ len → (len - 1 - tsw) % v.rw = 0 →
        ∃ t, exec .pktUnpack s = .next t ∧
          t = { s with rdout := t.rdout, otag := s.byteAt 0, oext := (s.byteAt 5).getLsbD 7,
                       onrd := BitVec.ofNat 8 ((len - 1 - tsw) / v.rw),
                       ots := (tsUnpack (s.memRead 2 tsw)).ts,
                       rlen := BitVec.ofNat 9 (len + 1), err := .ok, fovf := false } ∧
          ∀ i : Fin 32, t.rdout[i] =
            if i.val < (len - 1 - tsw) / v.rw then rdDecode v (s.memRead (2 + tsw + i.val * v.rw) v.rw)
            else ⟨0, 0, 0, 0, 0, 0, 0, 0⟩)

/-- R193: a successful PKT_UNPACK depends on no byte past the packet, and RLEN tells where the packet ended. -/
def Obligations.BytesPastThePacketAreIgnored : Prop :=
  ∀ (s t : State) (m : Memory), exec .pktUnpack s = .next t → t.err = .ok →
    (∀ a, a ≤ (s.byteAt 1).toNat → State.byteAt { s with buf := m } a = s.byteAt a) →
    exec .pktUnpack { s with buf := m } = .next { t with buf := m } ∧ t.rlen.toNat = (s.byteAt 1).toNat + 1

/-- R196, which the spec derives from R180 and R183: the length byte after a successful PKT_PACK. -/
def Obligations.LengthPrefixIsTotalMinusOne : Prop :=
  ∀ s t : State, exec .pktPack s = .next t → t.err = .ok → (t.byteAt 1).toNat = t.rlen.toNat - 1 ∧ 0 < t.rlen.toNat

/-- R197, which the spec derives from R180 and R190: PKT_UNPACK of a packet succeeds and finds exactly its readings. -/
def Obligations.FramingTerminates : Prop :=
  ∀ (s : State) tag v ts e rs total, viewOf tag = some v →
    total = 2 + (if e then 5 else 4) + rs.length * v.rw → total ≤ 256 →
    s.memRead 0 total = pktBytes tag v ts e rs → total ≤ s.inlen.toNat →
    (s.byteAt 1).toNat = 1 + (if e then 5 else 4) + rs.length * v.rw ∧
    ∃ t, exec .pktUnpack s = .next t ∧ t.err = .ok ∧ t.onrd.toNat = rs.length ∧ t.rlen.toNat = total

/-- R198, which the spec derives from R127, R164, R183, R190 and R197: pack, then unpack in place, gives
back every field that the formats carry. -/
def Obligations.PacketRoundTrip : Prop :=
  ∀ (s t : State) (inlen : BitVec 9), exec .pktPack s = .next t → t.err = .ok → t.rlen.toNat ≤ inlen.toNat →
    ∃ v u, viewOf s.tag = some v ∧ exec .pktUnpack { t with inlen := inlen } = .next u ∧ u.err = .ok ∧
      u.otag = s.tag ∧ u.oext = s.ext ∧ u.ots = tsProj s.ts s.ext ∧ u.onrd = s.nrd ∧
      (∀ i : Fin 32, u.rdout[i] = if i.val < s.nrd.toNat then project s.rdin[i] v else ⟨0, 0, 0, 0, 0, 0, 0, 0⟩) ∧
      u.rlen.toNat = 2 + (if s.ext then 5 else 4) + s.nrd.toNat * v.rw ∧ u.buf = t.buf

/-- R199, its part on well-formed packets, which the spec derives from R190: the reference's loop decodes
exactly `n` readings. -/
def Obligations.ReferenceLoopAgrees : Prop :=
  ∀ (v : View) (e : Bool) (n rounds : Nat), n ≤ rounds →
    referenceLoop rounds (2 + tsWidth e) (1 + tsWidth e + n * v.rw) v.rw = n ∧
    (∀ k, k < n → 2 + tsWidth e + k * v.rw < 1 + tsWidth e + n * v.rw) ∧
    ¬ 2 + tsWidth e + n * v.rw < 1 + tsWidth e + n * v.rw

/-! ## Every command -/

/-- R68, R226: a command completes with OK, or raises one error and leaves exactly the state before it with ERR, FOVF
and RLEN written. -/
def Obligations.CommandsAreAllOrNothing : Prop :=
  ∀ i s, ∃ t, exec i s = .next t ∧
    (t.err = .ok ∨ (t.err ≠ .ok ∧ t = { s with err := t.err, fovf := false, rlen := 0 }))

/-- R38: RLEN after each command. -/
def Obligations.RlenCountsBytes : Prop :=
  ∀ i (s t : State), exec i s = .next t →
    (t.err ≠ .ok → t.rlen = 0) ∧
    (t.err = .ok → (i = .tsPack → t.rlen.toNat = if s.ext then 5 else 4) ∧
      (i = .tsUnpack → t.rlen.toNat = if t.oext then 5 else 4) ∧
      ((i = .rdEncode ∨ i = .rdDecode) → t.rlen.toNat = if s.tag = 0x02 then 16 else 8) ∧
      (i = .pktPack → t.rlen.toNat =
        2 + (if s.ext then 5 else 4) + s.nrd.toNat * (if s.tag = 0x02 then 16 else 8)) ∧
      (i = .pktUnpack → t.rlen.toNat = (s.byteAt 1).toNat + 1))

/-- R27, R31 to R37: no command writes RDIN or an operand register; and the fields the host holds are not touched. -/
def Obligations.CommandsKeepTheirOperands : Prop :=
  ∀ i (s t : State), exec i s = .next t →
    t.rdin = s.rdin ∧ t.tag = s.tag ∧ t.ext = s.ext ∧ t.addr = s.addr ∧ t.nrd = s.nrd ∧ t.cap = s.cap ∧
    t.inlen = s.inlen ∧ t.ts = s.ts ∧ t.busy = s.busy ∧ t.draws = s.draws ∧ t.pending = s.pending ∧
    t.answers = s.answers

/-- R28, R39 to R42, R65: which commands write which outputs, on success or failure. -/
def Obligations.OutputsHaveTheirWriters : Prop :=
  ∀ i (s t : State), exec i s = .next t →
    (i ≠ .pktUnpack → t.otag = s.otag ∧ t.onrd = s.onrd) ∧
    (i ≠ .pktUnpack → i ≠ .tsUnpack → t.ots = s.ots ∧ t.oext = s.oext) ∧
    (i ≠ .pktUnpack → i ≠ .rdDecode → t.rdout = s.rdout) ∧
    ((i = .tsUnpack ∨ i = .rdDecode ∨ i = .pktUnpack) → t.buf = s.buf)

/-- R65, R66: a pack command changes no byte of BUF outside the RLEN bytes it reports from its start, which end inside
the capacity. -/
def Obligations.PacksWriteInsideTheirRange : Prop :=
  ∀ i (s t : State) (start : Nat), exec i s = .next t →
    ((i = .tsPack ∨ i = .rdEncode) ∧ start = s.addr.toNat ∨ i = .pktPack ∧ start = 0) →
    (∀ b, (b < start ∨ start + t.rlen.toNat ≤ b) → t.byteAt b = s.byteAt b) ∧
    (t.err = .ok → start + t.rlen.toNat ≤ min s.cap.toNat 256)

/-- R30, R224: FOVF after a command is 1 exactly when it is TS_PACK or PKT_PACK, succeeded, and masked a timestamp
field. -/
def Obligations.FovfReportsMaskedPacks : Prop :=
  ∀ i (s t : State), exec i s = .next t →
    (t.fovf = true ↔ (i = .tsPack ∨ i = .pktPack) ∧ t.err = .ok ∧ tsOvf s.ts s.ext = true)

/-- R221: exactly the tags without a view raise UNSUPPORTED_TYPE, before any other check of a tag; TS_PACK and TS_UNPACK
never do. -/
def Obligations.UnsupportedTypeIsForTagsWithoutView : Prop :=
  ∀ s : State,
    (∀ i, (i = .rdEncode ∨ i = .rdDecode ∨ i = .pktPack) →
      ((∃ t, exec i s = .next t ∧ t.err = .unsupportedType) ↔
        s.tag ≠ 0x02#8 ∧ s.tag ≠ 0x03#8 ∧ s.tag ≠ 0x04#8)) ∧
    ((∃ t, exec .pktUnpack s = .next t ∧ t.err = .unsupportedType) ↔
      2 ≤ s.inlen.toNat ∧ s.byteAt 0 ≠ 0x02#8 ∧ s.byteAt 0 ≠ 0x03#8 ∧ s.byteAt 0 ≠ 0x04#8) ∧
    (∀ i t, (i = .tsPack ∨ i = .tsUnpack) → exec i s = .next t → t.err ≠ .unsupportedType)

/-- R253, which the spec derives from R250, R251 and R29, with R230's order (log 13): with CAP at its reset value 0 no
pack command succeeds, and with INLEN at its reset value 0 no unpack command does, where the command has a tag with a
view or reads no tag register. CAP says nothing of an unpack command, nor INLEN of a pack. -/
def Obligations.CapAndInlenMustBeSet : Prop :=
  ∀ s : State,
    (s.cap = 0 → Raises s .bufferOverflow (exec .tsPack s) ∧
      ∀ v, viewOf s.tag = some v →
        Raises s .bufferOverflow (exec .rdEncode s) ∧ Raises s .bufferOverflow (exec .pktPack s)) ∧
    (s.inlen = 0 → Raises s .truncatedInput (exec .tsUnpack s) ∧ Raises s .truncatedInput (exec .pktUnpack s) ∧
      ∀ v, viewOf s.tag = some v → Raises s .truncatedInput (exec .rdDecode s))

/-- R227, whose last sentence the spec derives from R70: a failed command, issued again, raises the same error and
changes nothing. -/
def Obligations.FailedCommandFailsAgain : Prop :=
  ∀ i (s t : State), exec i s = .next t → t.err ≠ .ok → exec i t = .next t

/-- R70, whose last sentence the spec derives from R69 and R45: a command issued twice leaves the state that issuing it
once leaves. BUF in canonical form is an invariant (`StepKeepsInvariant`). -/
def Obligations.CommandsAreIdempotent : Prop :=
  ∀ i (s t : State), s.buf.wf → exec i s = .next t → exec i t = .next t

/-- R67: an unpack command depends on no byte at or past the declared input length. -/
def Obligations.UnpacksReadOnlyDeclaredInput : Prop :=
  ∀ i (s t : State) (m : Memory), (i = .tsUnpack ∨ i = .rdDecode ∨ i = .pktUnpack) → exec i s = .next t →
    (∀ a, a < min s.inlen.toNat 256 → State.byteAt { s with buf := m } a = s.byteAt a) →
    exec i { s with buf := m } = .next { t with buf := m }

/-- R124, R190 (92 D28): the unpack commands take the timestamp form and the tag from the data; TS_UNPACK reads no EXT
and PKT_UNPACK no TAG, EXT, NRD or ADDR. -/
def Obligations.UnpackFormComesFromData : Prop :=
  ∀ (s t : State) (tag addr nrd : Byte) (ext : Bool),
    (exec .tsUnpack s = .next t → exec .tsUnpack { s with ext := ext } = .next { t with ext := ext }) ∧
    (exec .pktUnpack s = .next t →
      exec .pktUnpack { s with tag := tag, ext := ext, nrd := nrd, addr := addr } =
        .next { t with tag := tag, ext := ext, nrd := nrd, addr := addr })

/-! ## Every step -/

/-- The invariant holds right after reset, however many resets there were. -/
def Obligations.InvariantHoldsAtReset : Prop :=
  State.reset.Inv ∧ ∀ draw pending answers, (State.resetWith draw pending answers).Inv

/-- Every step keeps the invariant: canonical memory, BUSY never seen, FOVF only with OK, RLEN 0 after an error, and the
bounds of the outputs (R30, R38, R41, R42, R224, R260). -/
def Obligations.StepKeepsInvariant : Prop :=
  ∀ s t : State, s.Inv → step s = .next t → t.Inv

/-- From a state that meets the invariant a step stops exactly on a word that R100 calls invalid, and by that name. -/
def Obligations.OnlyInvalidWordsStop : Prop :=
  ∀ s : State, s.Inv →
    (s.nextInputValid → s.Safe) ∧
    (∀ r, step s = .refused r ↔
      r = .invalidProgramWord ∧ ∃ w rest, s.pending = .word w :: rest ∧ htwWellFormed w = false)
end

