-- ==== Sys2Proof/Laws/State.lean ====
section
/-! SUPPORT. What each named update of the state writes and what it leaves: one lemma per field, true by definition, so
that no proof unfolds a record update. -/

namespace Sys2Proof.Machine

variable (s : State)

/-! ## MemWrite -/

@[simp] theorem State.memWrite_buf (a : Nat) (bs : List Byte) : (s.memWrite a bs).buf = s.buf.writeList a bs := rfl
@[simp] theorem State.memWrite_rdin (a : Nat) (bs : List Byte) : (s.memWrite a bs).rdin = s.rdin := rfl
@[simp] theorem State.memWrite_rdout (a : Nat) (bs : List Byte) : (s.memWrite a bs).rdout = s.rdout := rfl
@[simp] theorem State.memWrite_err (a : Nat) (bs : List Byte) : (s.memWrite a bs).err = s.err := rfl
@[simp] theorem State.memWrite_fovf (a : Nat) (bs : List Byte) : (s.memWrite a bs).fovf = s.fovf := rfl
@[simp] theorem State.memWrite_busy (a : Nat) (bs : List Byte) : (s.memWrite a bs).busy = s.busy := rfl
@[simp] theorem State.memWrite_tag (a : Nat) (bs : List Byte) : (s.memWrite a bs).tag = s.tag := rfl
@[simp] theorem State.memWrite_ext (a : Nat) (bs : List Byte) : (s.memWrite a bs).ext = s.ext := rfl
@[simp] theorem State.memWrite_addr (a : Nat) (bs : List Byte) : (s.memWrite a bs).addr = s.addr := rfl
@[simp] theorem State.memWrite_nrd (a : Nat) (bs : List Byte) : (s.memWrite a bs).nrd = s.nrd := rfl
@[simp] theorem State.memWrite_cap (a : Nat) (bs : List Byte) : (s.memWrite a bs).cap = s.cap := rfl
@[simp] theorem State.memWrite_inlen (a : Nat) (bs : List Byte) : (s.memWrite a bs).inlen = s.inlen := rfl
@[simp] theorem State.memWrite_ts (a : Nat) (bs : List Byte) : (s.memWrite a bs).ts = s.ts := rfl
@[simp] theorem State.memWrite_rlen (a : Nat) (bs : List Byte) : (s.memWrite a bs).rlen = s.rlen := rfl
@[simp] theorem State.memWrite_otag (a : Nat) (bs : List Byte) : (s.memWrite a bs).otag = s.otag := rfl
@[simp] theorem State.memWrite_oext (a : Nat) (bs : List Byte) : (s.memWrite a bs).oext = s.oext := rfl
@[simp] theorem State.memWrite_onrd (a : Nat) (bs : List Byte) : (s.memWrite a bs).onrd = s.onrd := rfl
@[simp] theorem State.memWrite_ots (a : Nat) (bs : List Byte) : (s.memWrite a bs).ots = s.ots := rfl
@[simp] theorem State.memWrite_draws (a : Nat) (bs : List Byte) : (s.memWrite a bs).draws = s.draws := rfl
@[simp] theorem State.memWrite_pending (a : Nat) (bs : List Byte) : (s.memWrite a bs).pending = s.pending := rfl
@[simp] theorem State.memWrite_answers (a : Nat) (bs : List Byte) : (s.memWrite a bs).answers = s.answers := rfl

/-! ## The write of RDOUT -/

@[simp] theorem State.writeRdout_buf (v : Vector Reading Config.rdDepth) : (s.writeRdout v).buf = s.buf := rfl
@[simp] theorem State.writeRdout_rdin (v : Vector Reading Config.rdDepth) : (s.writeRdout v).rdin = s.rdin := rfl
@[simp] theorem State.writeRdout_rdout (v : Vector Reading Config.rdDepth) : (s.writeRdout v).rdout = v := rfl
@[simp] theorem State.writeRdout_err (v : Vector Reading Config.rdDepth) : (s.writeRdout v).err = s.err := rfl
@[simp] theorem State.writeRdout_fovf (v : Vector Reading Config.rdDepth) : (s.writeRdout v).fovf = s.fovf := rfl
@[simp] theorem State.writeRdout_busy (v : Vector Reading Config.rdDepth) : (s.writeRdout v).busy = s.busy := rfl
@[simp] theorem State.writeRdout_tag (v : Vector Reading Config.rdDepth) : (s.writeRdout v).tag = s.tag := rfl
@[simp] theorem State.writeRdout_ext (v : Vector Reading Config.rdDepth) : (s.writeRdout v).ext = s.ext := rfl
@[simp] theorem State.writeRdout_addr (v : Vector Reading Config.rdDepth) : (s.writeRdout v).addr = s.addr := rfl
@[simp] theorem State.writeRdout_nrd (v : Vector Reading Config.rdDepth) : (s.writeRdout v).nrd = s.nrd := rfl
@[simp] theorem State.writeRdout_cap (v : Vector Reading Config.rdDepth) : (s.writeRdout v).cap = s.cap := rfl
@[simp] theorem State.writeRdout_inlen (v : Vector Reading Config.rdDepth) : (s.writeRdout v).inlen = s.inlen := rfl
@[simp] theorem State.writeRdout_ts (v : Vector Reading Config.rdDepth) : (s.writeRdout v).ts = s.ts := rfl
@[simp] theorem State.writeRdout_rlen (v : Vector Reading Config.rdDepth) : (s.writeRdout v).rlen = s.rlen := rfl
@[simp] theorem State.writeRdout_otag (v : Vector Reading Config.rdDepth) : (s.writeRdout v).otag = s.otag := rfl
@[simp] theorem State.writeRdout_oext (v : Vector Reading Config.rdDepth) : (s.writeRdout v).oext = s.oext := rfl
@[simp] theorem State.writeRdout_onrd (v : Vector Reading Config.rdDepth) : (s.writeRdout v).onrd = s.onrd := rfl
@[simp] theorem State.writeRdout_ots (v : Vector Reading Config.rdDepth) : (s.writeRdout v).ots = s.ots := rfl
@[simp] theorem State.writeRdout_draws (v : Vector Reading Config.rdDepth) : (s.writeRdout v).draws = s.draws := rfl
@[simp] theorem State.writeRdout_pending (v : Vector Reading Config.rdDepth) :
    (s.writeRdout v).pending = s.pending := rfl
@[simp] theorem State.writeRdout_answers (v : Vector Reading Config.rdDepth) :
    (s.writeRdout v).answers = s.answers := rfl

/-! ## The write of OTS -/

@[simp] theorem State.writeOts_buf (t : Timestamp) : (s.writeOts t).buf = s.buf := rfl
@[simp] theorem State.writeOts_rdin (t : Timestamp) : (s.writeOts t).rdin = s.rdin := rfl
@[simp] theorem State.writeOts_rdout (t : Timestamp) : (s.writeOts t).rdout = s.rdout := rfl
@[simp] theorem State.writeOts_err (t : Timestamp) : (s.writeOts t).err = s.err := rfl
@[simp] theorem State.writeOts_fovf (t : Timestamp) : (s.writeOts t).fovf = s.fovf := rfl
@[simp] theorem State.writeOts_busy (t : Timestamp) : (s.writeOts t).busy = s.busy := rfl
@[simp] theorem State.writeOts_tag (t : Timestamp) : (s.writeOts t).tag = s.tag := rfl
@[simp] theorem State.writeOts_ext (t : Timestamp) : (s.writeOts t).ext = s.ext := rfl
@[simp] theorem State.writeOts_addr (t : Timestamp) : (s.writeOts t).addr = s.addr := rfl
@[simp] theorem State.writeOts_nrd (t : Timestamp) : (s.writeOts t).nrd = s.nrd := rfl
@[simp] theorem State.writeOts_cap (t : Timestamp) : (s.writeOts t).cap = s.cap := rfl
@[simp] theorem State.writeOts_inlen (t : Timestamp) : (s.writeOts t).inlen = s.inlen := rfl
@[simp] theorem State.writeOts_ts (t : Timestamp) : (s.writeOts t).ts = s.ts := rfl
@[simp] theorem State.writeOts_rlen (t : Timestamp) : (s.writeOts t).rlen = s.rlen := rfl
@[simp] theorem State.writeOts_otag (t : Timestamp) : (s.writeOts t).otag = s.otag := rfl
@[simp] theorem State.writeOts_oext (t : Timestamp) : (s.writeOts t).oext = s.oext := rfl
@[simp] theorem State.writeOts_onrd (t : Timestamp) : (s.writeOts t).onrd = s.onrd := rfl
@[simp] theorem State.writeOts_ots (t : Timestamp) : (s.writeOts t).ots = { t with dow := 0 } := rfl
@[simp] theorem State.writeOts_draws (t : Timestamp) : (s.writeOts t).draws = s.draws := rfl
@[simp] theorem State.writeOts_pending (t : Timestamp) : (s.writeOts t).pending = s.pending := rfl
@[simp] theorem State.writeOts_answers (t : Timestamp) : (s.writeOts t).answers = s.answers := rfl

/-! ## The write of OEXT -/

@[simp] theorem State.writeOext_buf (e : Bool) : (s.writeOext e).buf = s.buf := rfl
@[simp] theorem State.writeOext_rdin (e : Bool) : (s.writeOext e).rdin = s.rdin := rfl
@[simp] theorem State.writeOext_rdout (e : Bool) : (s.writeOext e).rdout = s.rdout := rfl
@[simp] theorem State.writeOext_err (e : Bool) : (s.writeOext e).err = s.err := rfl
@[simp] theorem State.writeOext_fovf (e : Bool) : (s.writeOext e).fovf = s.fovf := rfl
@[simp] theorem State.writeOext_busy (e : Bool) : (s.writeOext e).busy = s.busy := rfl
@[simp] theorem State.writeOext_tag (e : Bool) : (s.writeOext e).tag = s.tag := rfl
@[simp] theorem State.writeOext_ext (e : Bool) : (s.writeOext e).ext = s.ext := rfl
@[simp] theorem State.writeOext_addr (e : Bool) : (s.writeOext e).addr = s.addr := rfl
@[simp] theorem State.writeOext_nrd (e : Bool) : (s.writeOext e).nrd = s.nrd := rfl
@[simp] theorem State.writeOext_cap (e : Bool) : (s.writeOext e).cap = s.cap := rfl
@[simp] theorem State.writeOext_inlen (e : Bool) : (s.writeOext e).inlen = s.inlen := rfl
@[simp] theorem State.writeOext_ts (e : Bool) : (s.writeOext e).ts = s.ts := rfl
@[simp] theorem State.writeOext_rlen (e : Bool) : (s.writeOext e).rlen = s.rlen := rfl
@[simp] theorem State.writeOext_otag (e : Bool) : (s.writeOext e).otag = s.otag := rfl
@[simp] theorem State.writeOext_oext (e : Bool) : (s.writeOext e).oext = e := rfl
@[simp] theorem State.writeOext_onrd (e : Bool) : (s.writeOext e).onrd = s.onrd := rfl
@[simp] theorem State.writeOext_ots (e : Bool) : (s.writeOext e).ots = s.ots := rfl
@[simp] theorem State.writeOext_draws (e : Bool) : (s.writeOext e).draws = s.draws := rfl
@[simp] theorem State.writeOext_pending (e : Bool) : (s.writeOext e).pending = s.pending := rfl
@[simp] theorem State.writeOext_answers (e : Bool) : (s.writeOext e).answers = s.answers := rfl

/-! ## The write of OTAG and ONRD -/

@[simp] theorem State.writeFraming_buf (g : Byte) (n : Nat) : (s.writeFraming g n).buf = s.buf := rfl
@[simp] theorem State.writeFraming_rdin (g : Byte) (n : Nat) : (s.writeFraming g n).rdin = s.rdin := rfl
@[simp] theorem State.writeFraming_rdout (g : Byte) (n : Nat) : (s.writeFraming g n).rdout = s.rdout := rfl
@[simp] theorem State.writeFraming_err (g : Byte) (n : Nat) : (s.writeFraming g n).err = s.err := rfl
@[simp] theorem State.writeFraming_fovf (g : Byte) (n : Nat) : (s.writeFraming g n).fovf = s.fovf := rfl
@[simp] theorem State.writeFraming_busy (g : Byte) (n : Nat) : (s.writeFraming g n).busy = s.busy := rfl
@[simp] theorem State.writeFraming_tag (g : Byte) (n : Nat) : (s.writeFraming g n).tag = s.tag := rfl
@[simp] theorem State.writeFraming_ext (g : Byte) (n : Nat) : (s.writeFraming g n).ext = s.ext := rfl
@[simp] theorem State.writeFraming_addr (g : Byte) (n : Nat) : (s.writeFraming g n).addr = s.addr := rfl
@[simp] theorem State.writeFraming_nrd (g : Byte) (n : Nat) : (s.writeFraming g n).nrd = s.nrd := rfl
@[simp] theorem State.writeFraming_cap (g : Byte) (n : Nat) : (s.writeFraming g n).cap = s.cap := rfl
@[simp] theorem State.writeFraming_inlen (g : Byte) (n : Nat) : (s.writeFraming g n).inlen = s.inlen := rfl
@[simp] theorem State.writeFraming_ts (g : Byte) (n : Nat) : (s.writeFraming g n).ts = s.ts := rfl
@[simp] theorem State.writeFraming_rlen (g : Byte) (n : Nat) : (s.writeFraming g n).rlen = s.rlen := rfl
@[simp] theorem State.writeFraming_otag (g : Byte) (n : Nat) : (s.writeFraming g n).otag = g := rfl
@[simp] theorem State.writeFraming_oext (g : Byte) (n : Nat) : (s.writeFraming g n).oext = s.oext := rfl
@[simp] theorem State.writeFraming_onrd (g : Byte) (n : Nat) : (s.writeFraming g n).onrd = BitVec.ofNat 8 n := rfl
@[simp] theorem State.writeFraming_ots (g : Byte) (n : Nat) : (s.writeFraming g n).ots = s.ots := rfl
@[simp] theorem State.writeFraming_draws (g : Byte) (n : Nat) : (s.writeFraming g n).draws = s.draws := rfl
@[simp] theorem State.writeFraming_pending (g : Byte) (n : Nat) : (s.writeFraming g n).pending = s.pending := rfl
@[simp] theorem State.writeFraming_answers (g : Byte) (n : Nat) : (s.writeFraming g n).answers = s.answers := rfl

/-! ## A command's success -/

@[simp] theorem State.succeed_buf (n : Nat) (o : Bool) : (s.succeed n o).buf = s.buf := rfl
@[simp] theorem State.succeed_rdin (n : Nat) (o : Bool) : (s.succeed n o).rdin = s.rdin := rfl
@[simp] theorem State.succeed_rdout (n : Nat) (o : Bool) : (s.succeed n o).rdout = s.rdout := rfl
@[simp] theorem State.succeed_err (n : Nat) (o : Bool) : (s.succeed n o).err = .ok := rfl
@[simp] theorem State.succeed_fovf (n : Nat) (o : Bool) : (s.succeed n o).fovf = o := rfl
@[simp] theorem State.succeed_busy (n : Nat) (o : Bool) : (s.succeed n o).busy = s.busy := rfl
@[simp] theorem State.succeed_tag (n : Nat) (o : Bool) : (s.succeed n o).tag = s.tag := rfl
@[simp] theorem State.succeed_ext (n : Nat) (o : Bool) : (s.succeed n o).ext = s.ext := rfl
@[simp] theorem State.succeed_addr (n : Nat) (o : Bool) : (s.succeed n o).addr = s.addr := rfl
@[simp] theorem State.succeed_nrd (n : Nat) (o : Bool) : (s.succeed n o).nrd = s.nrd := rfl
@[simp] theorem State.succeed_cap (n : Nat) (o : Bool) : (s.succeed n o).cap = s.cap := rfl
@[simp] theorem State.succeed_inlen (n : Nat) (o : Bool) : (s.succeed n o).inlen = s.inlen := rfl
@[simp] theorem State.succeed_ts (n : Nat) (o : Bool) : (s.succeed n o).ts = s.ts := rfl
@[simp] theorem State.succeed_rlen (n : Nat) (o : Bool) : (s.succeed n o).rlen = BitVec.ofNat 9 n := rfl
@[simp] theorem State.succeed_otag (n : Nat) (o : Bool) : (s.succeed n o).otag = s.otag := rfl
@[simp] theorem State.succeed_oext (n : Nat) (o : Bool) : (s.succeed n o).oext = s.oext := rfl
@[simp] theorem State.succeed_onrd (n : Nat) (o : Bool) : (s.succeed n o).onrd = s.onrd := rfl
@[simp] theorem State.succeed_ots (n : Nat) (o : Bool) : (s.succeed n o).ots = s.ots := rfl
@[simp] theorem State.succeed_draws (n : Nat) (o : Bool) : (s.succeed n o).draws = s.draws := rfl
@[simp] theorem State.succeed_pending (n : Nat) (o : Bool) : (s.succeed n o).pending = s.pending := rfl
@[simp] theorem State.succeed_answers (n : Nat) (o : Bool) : (s.succeed n o).answers = s.answers := rfl

/-! ## A command's error -/

@[simp] theorem State.raise_buf (e : Err) : (s.raise e).buf = s.buf := rfl
@[simp] theorem State.raise_rdin (e : Err) : (s.raise e).rdin = s.rdin := rfl
@[simp] theorem State.raise_rdout (e : Err) : (s.raise e).rdout = s.rdout := rfl
@[simp] theorem State.raise_err (e : Err) : (s.raise e).err = e := rfl
@[simp] theorem State.raise_fovf (e : Err) : (s.raise e).fovf = false := rfl
@[simp] theorem State.raise_busy (e : Err) : (s.raise e).busy = s.busy := rfl
@[simp] theorem State.raise_tag (e : Err) : (s.raise e).tag = s.tag := rfl
@[simp] theorem State.raise_ext (e : Err) : (s.raise e).ext = s.ext := rfl
@[simp] theorem State.raise_addr (e : Err) : (s.raise e).addr = s.addr := rfl
@[simp] theorem State.raise_nrd (e : Err) : (s.raise e).nrd = s.nrd := rfl
@[simp] theorem State.raise_cap (e : Err) : (s.raise e).cap = s.cap := rfl
@[simp] theorem State.raise_inlen (e : Err) : (s.raise e).inlen = s.inlen := rfl
@[simp] theorem State.raise_ts (e : Err) : (s.raise e).ts = s.ts := rfl
@[simp] theorem State.raise_rlen (e : Err) : (s.raise e).rlen = 0 := rfl
@[simp] theorem State.raise_otag (e : Err) : (s.raise e).otag = s.otag := rfl
@[simp] theorem State.raise_oext (e : Err) : (s.raise e).oext = s.oext := rfl
@[simp] theorem State.raise_onrd (e : Err) : (s.raise e).onrd = s.onrd := rfl
@[simp] theorem State.raise_ots (e : Err) : (s.raise e).ots = s.ots := rfl
@[simp] theorem State.raise_draws (e : Err) : (s.raise e).draws = s.draws := rfl
@[simp] theorem State.raise_pending (e : Err) : (s.raise e).pending = s.pending := rfl
@[simp] theorem State.raise_answers (e : Err) : (s.raise e).answers = s.answers := rfl

/-! ## A host read's answer -/

@[simp] theorem State.answer_buf (d : Half) : (s.answer d).buf = s.buf := rfl
@[simp] theorem State.answer_rdin (d : Half) : (s.answer d).rdin = s.rdin := rfl
@[simp] theorem State.answer_rdout (d : Half) : (s.answer d).rdout = s.rdout := rfl
@[simp] theorem State.answer_err (d : Half) : (s.answer d).err = s.err := rfl
@[simp] theorem State.answer_fovf (d : Half) : (s.answer d).fovf = s.fovf := rfl
@[simp] theorem State.answer_busy (d : Half) : (s.answer d).busy = s.busy := rfl
@[simp] theorem State.answer_tag (d : Half) : (s.answer d).tag = s.tag := rfl
@[simp] theorem State.answer_ext (d : Half) : (s.answer d).ext = s.ext := rfl
@[simp] theorem State.answer_addr (d : Half) : (s.answer d).addr = s.addr := rfl
@[simp] theorem State.answer_nrd (d : Half) : (s.answer d).nrd = s.nrd := rfl
@[simp] theorem State.answer_cap (d : Half) : (s.answer d).cap = s.cap := rfl
@[simp] theorem State.answer_inlen (d : Half) : (s.answer d).inlen = s.inlen := rfl
@[simp] theorem State.answer_ts (d : Half) : (s.answer d).ts = s.ts := rfl
@[simp] theorem State.answer_rlen (d : Half) : (s.answer d).rlen = s.rlen := rfl
@[simp] theorem State.answer_otag (d : Half) : (s.answer d).otag = s.otag := rfl
@[simp] theorem State.answer_oext (d : Half) : (s.answer d).oext = s.oext := rfl
@[simp] theorem State.answer_onrd (d : Half) : (s.answer d).onrd = s.onrd := rfl
@[simp] theorem State.answer_ots (d : Half) : (s.answer d).ots = s.ots := rfl
@[simp] theorem State.answer_draws (d : Half) : (s.answer d).draws = s.draws := rfl
@[simp] theorem State.answer_pending (d : Half) : (s.answer d).pending = s.pending := rfl
@[simp] theorem State.answer_answers (d : Half) : (s.answer d).answers = s.answers ++ [d] := rfl

/-! ## Reset -/

@[simp] theorem State.hostReset_eq : s.hostReset = State.resetWith (s.draws + 1) s.pending s.answers := rfl

/-! ## Bytes -/

/-- A byte of BUF depends on the cells and the number of the draw alone. -/
theorem State.byteAt_congr (t : State) (hb : s.buf = t.buf) (hd : s.draws = t.draws) (a : Nat) :
    s.byteAt a = t.byteAt a := by
  simp [State.byteAt, hb, hd]

@[simp] theorem State.writeRdout_byteAt (v : Vector Reading Config.rdDepth) (a : Nat) :
    (s.writeRdout v).byteAt a = s.byteAt a := rfl
@[simp] theorem State.writeOts_byteAt (t : Timestamp) (a : Nat) : (s.writeOts t).byteAt a = s.byteAt a := rfl
@[simp] theorem State.writeOext_byteAt (e : Bool) (a : Nat) : (s.writeOext e).byteAt a = s.byteAt a := rfl
@[simp] theorem State.writeFraming_byteAt (g : Byte) (n a : Nat) : (s.writeFraming g n).byteAt a = s.byteAt a := rfl
@[simp] theorem State.succeed_byteAt (n : Nat) (o : Bool) (a : Nat) : (s.succeed n o).byteAt a = s.byteAt a := rfl
@[simp] theorem State.raise_byteAt (e : Err) (a : Nat) : (s.raise e).byteAt a = s.byteAt a := rfl
@[simp] theorem State.answer_byteAt (d : Half) (a : Nat) : (s.answer d).byteAt a = s.byteAt a := rfl

/-! ## Equal states -/

/-- Two states with equal fields are equal. -/
theorem State.ext_fields {s t : State} (buf : s.buf = t.buf) (rdin : s.rdin = t.rdin) (rdout : s.rdout = t.rdout)
    (err : s.err = t.err) (fovf : s.fovf = t.fovf) (busy : s.busy = t.busy) (tag : s.tag = t.tag)
    (ext : s.ext = t.ext) (addr : s.addr = t.addr) (nrd : s.nrd = t.nrd) (cap : s.cap = t.cap)
    (inlen : s.inlen = t.inlen) (ts : s.ts = t.ts) (rlen : s.rlen = t.rlen) (otag : s.otag = t.otag)
    (oext : s.oext = t.oext) (onrd : s.onrd = t.onrd) (ots : s.ots = t.ots) (draws : s.draws = t.draws)
    (pending : s.pending = t.pending) (answers : s.answers = t.answers) : s = t := by
  cases s
  cases t
  simp only at *
  subst_vars
  rfl

end Sys2Proof.Machine
end

