-- ==== Sys2Proof/Laws/Memory.lean ====
section
/-! SUPPORT. The laws of BUF: a read after a write, the bytes a write leaves alone, and that every memory operation
keeps the canonical form, in which equal memories are equal lists. -/

namespace Sys2Proof.Machine

/-! ## One cell -/

theorem Memory.cellAt_put (m : Memory) (a : Nat) (v : Byte) (b : Nat) :
    (m.put a v).cellAt b = if b = a then some v else m.cellAt b := by
  induction m with
  | nil => simp [Memory.put, Memory.cellAt]
  | cons c rest ih =>
    obtain ⟨k, w⟩ := c
    simp only [Memory.put]
    split
    · simp [Memory.cellAt]
    · split
      · next h => subst h; by_cases hb : b = a <;> simp [Memory.cellAt, hb]
      · simp only [Memory.cellAt, ih]
        by_cases hk : b = k
        · subst hk; simp; omega
        · simp [hk]

theorem Memory.mem_put {m : Memory} {a : Nat} {v : Byte} {c : Host.Cell} (h : c ∈ m.put a v) :
    c = (a, v) ∨ c ∈ m := by
  induction m with
  | nil => simpa [Memory.put] using h
  | cons d rest ih =>
    obtain ⟨k, w⟩ := d
    simp only [Memory.put] at h
    split at h
    · simpa using h
    · split at h <;> simp only [List.mem_cons] at h ⊢
      · tauto
      · rcases h with h | h
        · tauto
        · rcases ih h with h | h <;> tauto

theorem Memory.pairwise_put {m : Memory} (h : m.Pairwise (fun x y => x.1 < y.1)) (a : Nat) (v : Byte) :
    (m.put a v).Pairwise (fun x y => x.1 < y.1) := by
  induction m with
  | nil => simp [Memory.put]
  | cons d rest ih =>
    obtain ⟨k, w⟩ := d
    obtain ⟨hk, hr⟩ := List.pairwise_cons.1 h
    simp only [Memory.put]
    split
    · next hlt =>
      refine List.pairwise_cons.2 ⟨fun c hc => ?_, h⟩
      rcases List.mem_cons.1 hc with rfl | hc
      · exact hlt
      · exact lt_trans hlt (hk c hc)
    · split
      · next he => subst he; exact List.pairwise_cons.2 ⟨hk, hr⟩
      · next h1 h2 =>
        refine List.pairwise_cons.2 ⟨fun c hc => ?_, ih hr⟩
        rcases Memory.mem_put hc with rfl | hc
        · show k < a; omega
        · exact hk c hc

/-! ## One write -/

theorem Memory.cellAt_write (m : Memory) (a : Nat) (v : Byte) (b : Nat) :
    (m.write a v).cellAt b = if b = a ∧ a < Config.bufSize then some v else m.cellAt b := by
  unfold Memory.write
  split <;> simp [Memory.cellAt_put, *]

/-- A write keeps the canonical form. -/
theorem Memory.write_wf {m : Memory} (h : m.wf) (a : Nat) (v : Byte) : (m.write a v).wf := by
  unfold Memory.write
  split
  · next ha =>
    refine ⟨Memory.pairwise_put h.1 a v, fun c hc => ?_⟩
    rcases Memory.mem_put hc with rfl | hc
    · exact ha
    · exact h.2 c hc
  · exact h

/-! ## A run of bytes -/

/-- What a cell holds after a run of bytes is written inside BUF: the run's byte, or what it held before. -/
theorem Memory.cellAt_writeList (bytes : List Byte) (m : Memory) (a b : Nat)
    (hin : a + bytes.length ≤ Config.bufSize) :
    (m.writeList a bytes).cellAt b =
      if a ≤ b ∧ b < a + bytes.length then bytes[b - a]? else m.cellAt b := by
  induction bytes generalizing m a with
  | nil => rw [if_neg (by simp)]; rfl
  | cons x xs ih =>
    simp only [List.length_cons] at hin
    rw [Memory.writeList, ih _ _ (by omega), Memory.cellAt_write]
    by_cases hb : b = a
    · subst hb; simp; omega
    · by_cases hr : a + 1 ≤ b ∧ b < a + 1 + xs.length
      · rw [if_pos hr, if_pos (by simp; omega)]
        have : b - a = (b - (a + 1)) + 1 := by omega
        simp [this]
      · rw [if_neg hr, if_neg (by simp [hb]), if_neg (by simp; omega)]

/-- A run of writes keeps the canonical form. -/
theorem Memory.writeList_wf (bytes : List Byte) {m : Memory} (h : m.wf) (a : Nat) : (m.writeList a bytes).wf := by
  induction bytes generalizing m a with
  | nil => exact h
  | cons x xs ih => exact ih (Memory.write_wf h a x) (a + 1)

/-- The empty memory is in canonical form. -/
theorem Memory.nil_wf : Memory.wf [] := by decide

/-! ## Canonical form -/

theorem Memory.cellAt_none_of_below {m : Memory} {a : Nat} (h : ∀ c ∈ m, a < c.1) : m.cellAt a = none := by
  induction m with
  | nil => rfl
  | cons d rest ih =>
    obtain ⟨k, w⟩ := d
    have hk : a < k := h (k, w) (by simp)
    rw [Memory.cellAt, if_neg (by omega)]
    exact ih fun c hc => h c (by simp [hc])

/-- Two memories in canonical form that list the same cells are the same list. -/
theorem Memory.ext_cellAt {m n : Memory} (hm : m.Pairwise (fun x y => x.1 < y.1))
    (hn : n.Pairwise (fun x y => x.1 < y.1)) (h : ∀ a, m.cellAt a = n.cellAt a) : m = n := by
  induction m generalizing n with
  | nil =>
    cases n with
    | nil => rfl
    | cons d rest => simpa [Memory.cellAt] using h d.1
  | cons d rest ih =>
    cases n with
    | nil => simpa [Memory.cellAt] using h d.1
    | cons e more =>
      obtain ⟨k, w⟩ := d
      obtain ⟨l, x⟩ := e
      obtain ⟨hk, hr⟩ := List.pairwise_cons.1 hm
      obtain ⟨hl, hs⟩ := List.pairwise_cons.1 hn
      have hkl : k = l := by
        by_contra hne
        rcases Nat.lt_or_gt_of_ne hne with hlt | hgt
        · have h0 := h k
          rw [Memory.cellAt_none_of_below (m := (l, x) :: more)] at h0
          · simp [Memory.cellAt] at h0
          · intro c hc
            rcases List.mem_cons.1 hc with rfl | hc
            · exact hlt
            · exact lt_trans hlt (hl c hc)
        · have h0 := h l
          rw [Memory.cellAt_none_of_below (m := (k, w) :: rest)] at h0
          · simp [Memory.cellAt] at h0
          · intro c hc
            rcases List.mem_cons.1 hc with rfl | hc
            · exact hgt
            · exact lt_trans hgt (hk c hc)
      subst hkl
      have hw : w = x := by simpa [Memory.cellAt] using h k
      subst hw
      congr 1
      refine ih hr hs fun a => ?_
      by_cases ha : a = k
      · subst ha
        rw [Memory.cellAt_none_of_below hk, Memory.cellAt_none_of_below hl]
      · simpa [Memory.cellAt, ha] using h a

/-! ## On the machine -/

/-- A byte of BUF after MemWrite inside the buffer: the run's byte, or the byte from before. -/
theorem State.memWrite_byteAt (s : State) (a : Nat) (bytes : List Byte) (b : Nat)
    (hin : a + bytes.length ≤ Config.bufSize) :
    (s.memWrite a bytes).byteAt b =
      if h : a ≤ b ∧ b < a + bytes.length then bytes[b - a]'(by omega) else s.byteAt b := by
  unfold State.byteAt
  rw [State.memWrite_buf, Memory.cellAt_writeList _ _ _ _ hin, State.memWrite_draws]
  split
  · next h => rw [List.getElem?_eq_getElem (by omega), Option.getD_some]
  · rfl

/-- MemWrite leaves every byte outside its range (R65). -/
theorem State.memWrite_byteAt_outside (s : State) (a : Nat) (bytes : List Byte) (b : Nat)
    (hin : a + bytes.length ≤ Config.bufSize) (hb : b < a ∨ a + bytes.length ≤ b) :
    (s.memWrite a bytes).byteAt b = s.byteAt b := by
  rw [State.memWrite_byteAt _ _ _ _ hin, dif_neg (by omega)]

/-- MemRead after MemWrite of the same range gives the bytes written. -/
theorem State.memRead_memWrite (s : State) (a : Nat) (bytes : List Byte)
    (hin : a + bytes.length ≤ Config.bufSize) :
    (s.memWrite a bytes).memRead a bytes.length = bytes := by
  apply List.ext_getElem
  · simp [State.memRead]
  · intro k h1 h2
    simp only [State.memRead, List.getElem_map, List.getElem_range]
    rw [State.memWrite_byteAt _ _ _ _ hin, dif_pos (by omega)]
    simp

@[simp] theorem State.memRead_length (s : State) (a n : Nat) : (s.memRead a n).length = n := by
  simp [State.memRead]

theorem State.memRead_getElem (s : State) (a n k : Nat) (h : k < (s.memRead a n).length) :
    (s.memRead a n)[k] = s.byteAt (a + k) := by
  simp [State.memRead]

theorem State.memRead_getD (s : State) (a n k : Nat) (h : k < n) : (s.memRead a n).getD k 0 = s.byteAt (a + k) := by
  rw [List.getD_eq_getElem _ _ (by simpa using h), State.memRead_getElem]

/-- MemRead depends on the bytes it reads alone. -/
theorem State.memRead_congr (s t : State) (a n : Nat) (h : ∀ k, k < n → s.byteAt (a + k) = t.byteAt (a + k)) :
    s.memRead a n = t.memRead a n := by
  unfold State.memRead
  exact List.map_congr_left fun k hk => h k (List.mem_range.1 hk)

end Sys2Proof.Machine
end

