-- ==== Sys2Proof/Laws/Commands.lean ====
section
/-! SUPPORT. What each command can do, said once: its checks as conditions, and one lemma that lists every outcome of
`exec`. Later proofs cite these and unfold no meaning. -/

namespace Sys2Proof.Machine

/-! ## Operands -/

theorem tsWidth_true : tsWidth true = 5 := rfl

theorem tsWidth_false : tsWidth false = 4 := rfl

theorem tsWidth_eq (e : Bool) : tsWidth e = if e then 5 else 4 := by cases e <;> rfl

theorem tsWidth_bounds (e : Bool) : 4 ≤ tsWidth e ∧ tsWidth e ≤ 5 := by cases e <;> decide

theorem State.cape_eq (s : State) : s.cape = min s.cap.toNat 256 := rfl

theorem State.inle_eq (s : State) : s.inle = min s.inlen.toNat 256 := rfl

theorem State.cape_le (s : State) : s.cape ≤ 256 := Nat.min_le_right _ _

theorem State.inle_le (s : State) : s.inle ≤ 256 := Nat.min_le_right _ _

theorem View.rw_eq (v : View) : v.rw = 2 * v.fields.length := by cases v <;> rfl

theorem View.rw_cases (v : View) : v.rw = 16 ∧ v = .full ∨ v.rw = 8 ∧ v ≠ .full := by cases v <;> decide

/-- A tag selects a view exactly as R90's table says. -/
theorem viewOf_eq_some {tag : Byte} {v : View} :
    viewOf tag = some v ↔ (tag = 0x02#8 ∧ v = .full) ∨ (tag = 0x03#8 ∧ v = .wind) ∨ (tag = 0x04#8 ∧ v = .env) := by
  unfold viewOf Config.tagFull Config.tagWind Config.tagEnv
  constructor
  · intro h
    split at h
    · cases h; tauto
    · split at h
      · cases h; tauto
      · split at h
        · cases h; tauto
        · cases h
  · rintro (⟨rfl, rfl⟩ | ⟨rfl, rfl⟩ | ⟨rfl, rfl⟩) <;> rfl

theorem viewOf_eq_none {tag : Byte} :
    viewOf tag = none ↔ tag ≠ 0x02#8 ∧ tag ≠ 0x03#8 ∧ tag ≠ 0x04#8 := by
  unfold viewOf Config.tagFull Config.tagWind Config.tagEnv
  split
  · simp_all
  · split
    · simp_all
    · split <;> simp_all

/-! ## Lengths -/

theorem tsBytes_length (ts : Timestamp) (e : Bool) : (tsBytes ts e).length = tsWidth e := by
  cases e <;> rfl

theorem rdEncode_length (v : View) (r : Reading) : (rdEncode v r).length = v.rw := by
  cases v <;> rfl

theorem pktBytes_length (tag : Byte) (v : View) (ts : Timestamp) (e : Bool) (rs : List Reading) :
    (pktBytes tag v ts e rs).length = pktTotal v e rs.length := by
  have : (rs.map fun a => (rdEncode v a).length) = rs.map fun _ => v.rw :=
    List.map_congr_left fun r _ => rdEncode_length v r
  simp only [pktBytes, pktTotal, List.length_append, List.length_flatMap, tsBytes_length, this,
    List.map_const', List.sum_replicate, List.length_cons, List.length_nil]
  simp

/-! ## Checks -/

theorem tsUnpackCheck_ok {s : State} {w : Nat} :
    tsUnpackCheck s = .ok w ↔
      w = tsWidth ((s.byteAt (s.addr.toNat + 3)).getLsbD 7) ∧ s.addr.toNat + w ≤ s.inle := by
  have := tsWidth_bounds ((s.byteAt (s.addr.toNat + 3)).getLsbD 7)
  unfold tsUnpackCheck
  split
  · constructor
    · intro h; cases h
    · rintro ⟨rfl, h⟩; omega
  · dsimp only
    split
    · constructor
      · intro h; cases h
      · rintro ⟨rfl, h⟩; omega
    · constructor
      · intro h; cases h; exact ⟨rfl, by omega⟩
      · rintro ⟨rfl, h⟩; rfl

theorem tsUnpackCheck_error {s : State} {e : Err} (h : tsUnpackCheck s = .error e) :
    e = .truncatedInput ∧ s.inle < s.addr.toNat + tsWidth ((s.byteAt (s.addr.toNat + 3)).getLsbD 7) := by
  have := tsWidth_bounds ((s.byteAt (s.addr.toNat + 3)).getLsbD 7)
  unfold tsUnpackCheck at h
  split at h
  · cases h; exact ⟨rfl, by omega⟩
  · dsimp only at h
    split at h
    · cases h; exact ⟨rfl, by omega⟩
    · cases h

theorem rdEncodeCheck_ok {s : State} {v : View} :
    rdEncodeCheck s = .ok v ↔ viewOf s.tag = some v ∧ s.addr.toNat + v.rw ≤ s.cape := by
  unfold rdEncodeCheck
  split
  · simp [*]
  · next u hu =>
    split
    · constructor
      · intro h; cases h
      · rintro ⟨h, h2⟩; rw [hu] at h; cases h; omega
    · constructor
      · intro h; cases h; exact ⟨hu, by omega⟩
      · rintro ⟨h, h2⟩; rw [hu] at h; cases h; rfl

theorem rdEncodeCheck_error {s : State} {e : Err} (h : rdEncodeCheck s = .error e) :
    (e = .unsupportedType ∧ viewOf s.tag = none) ∨
    (e = .bufferOverflow ∧ ∃ v, viewOf s.tag = some v ∧ s.cape < s.addr.toNat + v.rw) := by
  unfold rdEncodeCheck at h
  split at h
  · cases h; exact .inl ⟨rfl, ‹_›⟩
  · next u hu =>
    split at h
    · cases h; exact .inr ⟨rfl, u, hu, by omega⟩
    · cases h

theorem rdDecodeCheck_ok {s : State} {v : View} :
    rdDecodeCheck s = .ok v ↔ viewOf s.tag = some v ∧ s.addr.toNat + v.rw ≤ s.inle := by
  unfold rdDecodeCheck
  split
  · simp [*]
  · next u hu =>
    split
    · constructor
      · intro h; cases h
      · rintro ⟨h, h2⟩; rw [hu] at h; cases h; omega
    · constructor
      · intro h; cases h; exact ⟨hu, by omega⟩
      · rintro ⟨h, h2⟩; rw [hu] at h; cases h; rfl

theorem rdDecodeCheck_error {s : State} {e : Err} (h : rdDecodeCheck s = .error e) :
    (e = .unsupportedType ∧ viewOf s.tag = none) ∨
    (e = .truncatedInput ∧ ∃ v, viewOf s.tag = some v ∧ s.inle < s.addr.toNat + v.rw) := by
  unfold rdDecodeCheck at h
  split at h
  · cases h; exact .inl ⟨rfl, ‹_›⟩
  · next u hu =>
    split at h
    · cases h; exact .inr ⟨rfl, u, hu, by omega⟩
    · cases h

theorem pktPackCheck_ok {s : State} {v : View} :
    pktPackCheck s = .ok v ↔ viewOf s.tag = some v ∧ pktTotal v s.ext s.nrd.toNat ≤ s.cape := by
  unfold pktPackCheck
  split
  · simp [*]
  · next u hu =>
    split
    · constructor
      · intro h; cases h
      · rintro ⟨h, h2⟩; rw [hu] at h; cases h; omega
    · constructor
      · intro h; cases h; exact ⟨hu, by omega⟩
      · rintro ⟨h, h2⟩; rw [hu] at h; cases h; rfl

theorem pktPackCheck_error {s : State} {e : Err} (h : pktPackCheck s = .error e) :
    (e = .unsupportedType ∧ viewOf s.tag = none) ∨
    (e = .bufferOverflow ∧ ∃ v, viewOf s.tag = some v ∧ s.cape < pktTotal v s.ext s.nrd.toNat) := by
  unfold pktPackCheck at h
  split at h
  · cases h; exact .inl ⟨rfl, ‹_›⟩
  · next u hu =>
    split at h
    · cases h; exact .inr ⟨rfl, u, hu, by omega⟩
    · cases h

/-- What the framing must be for PKT_UNPACK to go on (R190), with the header it then works from. -/
structure PktFramed (s : State) (h : PktHeader) : Prop where
  two : 2 ≤ s.inle
  view : viewOf (s.byteAt 0) = some h.view
  len_eq : h.len = (s.byteAt 1).toNat
  ext_eq : h.ext = (s.byteAt 5).getLsbD 7
  five : 5 ≤ h.len
  inside : h.len + 1 ≤ s.inle
  stamp : 1 + tsWidth h.ext ≤ h.len
  exact : (h.len - 1 - tsWidth h.ext) % h.view.rw = 0
  count_eq : h.count = (h.len - 1 - tsWidth h.ext) / h.view.rw

theorem pktUnpackCheck_ok {s : State} {h : PktHeader} : pktUnpackCheck s = .ok h ↔ PktFramed s h := by
  unfold pktUnpackCheck
  constructor
  · intro hc
    split at hc
    · cases hc
    · split at hc
      · cases hc
      · next v hv =>
        dsimp only at hc
        split at hc
        · cases hc
        · split at hc
          · cases hc
          · split at hc
            · cases hc
            · split at hc
              · cases hc
              · cases hc
                exact ⟨by omega, hv, rfl, rfl, by simp only []; omega, by simp only []; omega,
                  by simp only []; omega, by simp only []; omega, rfl⟩
  · intro hf
    obtain ⟨v, len, e, n⟩ := h
    obtain ⟨h1, h2, h3, h4, h5, h6, h7, h8, h9⟩ := hf
    dsimp only at *
    subst h3 h4 h9
    rw [if_neg (by omega), h2]
    dsimp only
    rw [if_neg (by omega), if_neg (by omega), if_neg (by omega), if_neg (by omega)]

theorem pktUnpackCheck_error {s : State} {e : Err} (h : pktUnpackCheck s = .error e) :
    (e = .unsupportedType ∧ 2 ≤ s.inle ∧ viewOf (s.byteAt 0) = none) ∨
    (e = .truncatedInput ∧ (s.inle < 2 ∨ (viewOf (s.byteAt 0)).isSome)) := by
  unfold pktUnpackCheck at h
  split at h
  · cases h; exact .inr ⟨rfl, .inl (by omega)⟩
  · split at h
    · next hv => cases h; exact .inl ⟨rfl, by omega, hv⟩
    · next v hv =>
      have : (viewOf (s.byteAt 0)).isSome := by rw [hv]; rfl
      dsimp only at h
      split at h
      · cases h; exact .inr ⟨rfl, .inr this⟩
      · split at h
        · cases h; exact .inr ⟨rfl, .inr this⟩
        · split at h
          · cases h; exact .inr ⟨rfl, .inr this⟩
          · split at h
            · cases h; exact .inr ⟨rfl, .inr this⟩
            · cases h

/-! ## Outcomes -/

/-- The state after a successful TS_PACK. -/
def State.tsPacked (s : State) : State :=
  (s.memWrite s.addr.toNat (tsBytes s.ts s.ext)).succeed (tsWidth s.ext) (tsOvf s.ts s.ext)

/-- The state after a successful TS_UNPACK of a timestamp of width `w`. -/
def State.tsUnpacked (s : State) (w : Nat) : State :=
  ((s.writeOts (tsUnpack (s.memRead s.addr.toNat w)).ts).writeOext
    (tsUnpack (s.memRead s.addr.toNat w)).ext).succeed (tsUnpack (s.memRead s.addr.toNat w)).width false

/-- The state after a successful RD_ENCODE in view `v`. -/
def State.rdEncoded (s : State) (v : View) : State :=
  (s.memWrite s.addr.toNat (rdEncode v s.rdin[0])).succeed v.rw false

/-- The state after a successful RD_DECODE in view `v`. -/
def State.rdDecoded (s : State) (v : View) : State :=
  (s.writeRdout (s.rdout.set 0 (rdDecode v (s.memRead s.addr.toNat v.rw)))).succeed v.rw false

/-- The state after a successful PKT_PACK in view `v`. -/
def State.pktPacked (s : State) (v : View) : State :=
  (s.memWrite 0 (pktBytes s.tag v s.ts s.ext (s.readings s.nrd.toNat))).succeed
    (pktTotal v s.ext s.nrd.toNat) (tsOvf s.ts s.ext)

/-- The state after a successful PKT_UNPACK of a packet with header `h`. -/
def State.pktUnpacked (s : State) (h : PktHeader) : State :=
  ((((s.writeRdout (s.records h)).writeFraming (s.byteAt 0) h.count).writeOts
    (tsUnpack (s.memRead 2 (tsWidth h.ext))).ts).writeOext (tsUnpack (s.memRead 2 (tsWidth h.ext))).ext).succeed
    (h.len + 1) false

/-! ### The fields of those states -/

@[simp] theorem State.tsPacked_buf (s : State) :
    (s.tsPacked).buf = s.buf.writeList s.addr.toNat (tsBytes s.ts s.ext) := by
  simp [State.tsPacked]
@[simp] theorem State.tsPacked_rdin (s : State) : (s.tsPacked).rdin = s.rdin := by simp [State.tsPacked]
@[simp] theorem State.tsPacked_rdout (s : State) : (s.tsPacked).rdout = s.rdout := by simp [State.tsPacked]
@[simp] theorem State.tsPacked_err (s : State) : (s.tsPacked).err = .ok := by simp [State.tsPacked]
@[simp] theorem State.tsPacked_fovf (s : State) : (s.tsPacked).fovf = tsOvf s.ts s.ext := by simp [State.tsPacked]
@[simp] theorem State.tsPacked_busy (s : State) : (s.tsPacked).busy = s.busy := by simp [State.tsPacked]
@[simp] theorem State.tsPacked_tag (s : State) : (s.tsPacked).tag = s.tag := by simp [State.tsPacked]
@[simp] theorem State.tsPacked_ext (s : State) : (s.tsPacked).ext = s.ext := by simp [State.tsPacked]
@[simp] theorem State.tsPacked_addr (s : State) : (s.tsPacked).addr = s.addr := by simp [State.tsPacked]
@[simp] theorem State.tsPacked_nrd (s : State) : (s.tsPacked).nrd = s.nrd := by simp [State.tsPacked]
@[simp] theorem State.tsPacked_cap (s : State) : (s.tsPacked).cap = s.cap := by simp [State.tsPacked]
@[simp] theorem State.tsPacked_inlen (s : State) : (s.tsPacked).inlen = s.inlen := by simp [State.tsPacked]
@[simp] theorem State.tsPacked_ts (s : State) : (s.tsPacked).ts = s.ts := by simp [State.tsPacked]
@[simp] theorem State.tsPacked_rlen (s : State) : (s.tsPacked).rlen = BitVec.ofNat 9 (tsWidth s.ext) := by
  simp [State.tsPacked]
@[simp] theorem State.tsPacked_otag (s : State) : (s.tsPacked).otag = s.otag := by simp [State.tsPacked]
@[simp] theorem State.tsPacked_oext (s : State) : (s.tsPacked).oext = s.oext := by simp [State.tsPacked]
@[simp] theorem State.tsPacked_onrd (s : State) : (s.tsPacked).onrd = s.onrd := by simp [State.tsPacked]
@[simp] theorem State.tsPacked_ots (s : State) : (s.tsPacked).ots = s.ots := by simp [State.tsPacked]
@[simp] theorem State.tsPacked_draws (s : State) : (s.tsPacked).draws = s.draws := by simp [State.tsPacked]
@[simp] theorem State.tsPacked_pending (s : State) : (s.tsPacked).pending = s.pending := by simp [State.tsPacked]
@[simp] theorem State.tsPacked_answers (s : State) : (s.tsPacked).answers = s.answers := by simp [State.tsPacked]

@[simp] theorem State.tsUnpacked_buf (s : State) (w : Nat) : (s.tsUnpacked w).buf = s.buf := by simp [State.tsUnpacked]
@[simp] theorem State.tsUnpacked_rdin (s : State) (w : Nat) : (s.tsUnpacked w).rdin = s.rdin := by
  simp [State.tsUnpacked]
@[simp] theorem State.tsUnpacked_rdout (s : State) (w : Nat) : (s.tsUnpacked w).rdout = s.rdout := by
  simp [State.tsUnpacked]
@[simp] theorem State.tsUnpacked_err (s : State) (w : Nat) : (s.tsUnpacked w).err = .ok := by simp [State.tsUnpacked]
@[simp] theorem State.tsUnpacked_fovf (s : State) (w : Nat) : (s.tsUnpacked w).fovf = false := by
  simp [State.tsUnpacked]
@[simp] theorem State.tsUnpacked_busy (s : State) (w : Nat) : (s.tsUnpacked w).busy = s.busy := by
  simp [State.tsUnpacked]
@[simp] theorem State.tsUnpacked_tag (s : State) (w : Nat) : (s.tsUnpacked w).tag = s.tag := by simp [State.tsUnpacked]
@[simp] theorem State.tsUnpacked_ext (s : State) (w : Nat) : (s.tsUnpacked w).ext = s.ext := by simp [State.tsUnpacked]
@[simp] theorem State.tsUnpacked_addr (s : State) (w : Nat) : (s.tsUnpacked w).addr = s.addr := by
  simp [State.tsUnpacked]
@[simp] theorem State.tsUnpacked_nrd (s : State) (w : Nat) : (s.tsUnpacked w).nrd = s.nrd := by simp [State.tsUnpacked]
@[simp] theorem State.tsUnpacked_cap (s : State) (w : Nat) : (s.tsUnpacked w).cap = s.cap := by simp [State.tsUnpacked]
@[simp] theorem State.tsUnpacked_inlen (s : State) (w : Nat) : (s.tsUnpacked w).inlen = s.inlen := by
  simp [State.tsUnpacked]
@[simp] theorem State.tsUnpacked_ts (s : State) (w : Nat) : (s.tsUnpacked w).ts = s.ts := by simp [State.tsUnpacked]
@[simp] theorem State.tsUnpacked_rlen (s : State) (w : Nat) :
    (s.tsUnpacked w).rlen = BitVec.ofNat 9 (tsUnpack (s.memRead s.addr.toNat w)).width := by
  simp [State.tsUnpacked]
@[simp] theorem State.tsUnpacked_otag (s : State) (w : Nat) : (s.tsUnpacked w).otag = s.otag := by
  simp [State.tsUnpacked]
@[simp] theorem State.tsUnpacked_oext (s : State) (w : Nat) :
    (s.tsUnpacked w).oext = (tsUnpack (s.memRead s.addr.toNat w)).ext := by
  simp [State.tsUnpacked]
@[simp] theorem State.tsUnpacked_onrd (s : State) (w : Nat) : (s.tsUnpacked w).onrd = s.onrd := by
  simp [State.tsUnpacked]
@[simp] theorem State.tsUnpacked_ots (s : State) (w : Nat) :
    (s.tsUnpacked w).ots = { (tsUnpack (s.memRead s.addr.toNat w)).ts with dow := 0 } := by
  simp [State.tsUnpacked]
@[simp] theorem State.tsUnpacked_draws (s : State) (w : Nat) : (s.tsUnpacked w).draws = s.draws := by
  simp [State.tsUnpacked]
@[simp] theorem State.tsUnpacked_pending (s : State) (w : Nat) : (s.tsUnpacked w).pending = s.pending := by
  simp [State.tsUnpacked]
@[simp] theorem State.tsUnpacked_answers (s : State) (w : Nat) : (s.tsUnpacked w).answers = s.answers := by
  simp [State.tsUnpacked]

@[simp] theorem State.rdEncoded_buf (s : State) (v : View) :
    (s.rdEncoded v).buf = s.buf.writeList s.addr.toNat (rdEncode v s.rdin[0]) := by
  simp [State.rdEncoded]
@[simp] theorem State.rdEncoded_rdin (s : State) (v : View) : (s.rdEncoded v).rdin = s.rdin := by simp [State.rdEncoded]
@[simp] theorem State.rdEncoded_rdout (s : State) (v : View) : (s.rdEncoded v).rdout = s.rdout := by
  simp [State.rdEncoded]
@[simp] theorem State.rdEncoded_err (s : State) (v : View) : (s.rdEncoded v).err = .ok := by simp [State.rdEncoded]
@[simp] theorem State.rdEncoded_fovf (s : State) (v : View) : (s.rdEncoded v).fovf = false := by simp [State.rdEncoded]
@[simp] theorem State.rdEncoded_busy (s : State) (v : View) : (s.rdEncoded v).busy = s.busy := by simp [State.rdEncoded]
@[simp] theorem State.rdEncoded_tag (s : State) (v : View) : (s.rdEncoded v).tag = s.tag := by simp [State.rdEncoded]
@[simp] theorem State.rdEncoded_ext (s : State) (v : View) : (s.rdEncoded v).ext = s.ext := by simp [State.rdEncoded]
@[simp] theorem State.rdEncoded_addr (s : State) (v : View) : (s.rdEncoded v).addr = s.addr := by simp [State.rdEncoded]
@[simp] theorem State.rdEncoded_nrd (s : State) (v : View) : (s.rdEncoded v).nrd = s.nrd := by simp [State.rdEncoded]
@[simp] theorem State.rdEncoded_cap (s : State) (v : View) : (s.rdEncoded v).cap = s.cap := by simp [State.rdEncoded]
@[simp] theorem State.rdEncoded_inlen (s : State) (v : View) : (s.rdEncoded v).inlen = s.inlen := by
  simp [State.rdEncoded]
@[simp] theorem State.rdEncoded_ts (s : State) (v : View) : (s.rdEncoded v).ts = s.ts := by simp [State.rdEncoded]
@[simp] theorem State.rdEncoded_rlen (s : State) (v : View) : (s.rdEncoded v).rlen = BitVec.ofNat 9 v.rw := by
  simp [State.rdEncoded]
@[simp] theorem State.rdEncoded_otag (s : State) (v : View) : (s.rdEncoded v).otag = s.otag := by simp [State.rdEncoded]
@[simp] theorem State.rdEncoded_oext (s : State) (v : View) : (s.rdEncoded v).oext = s.oext := by simp [State.rdEncoded]
@[simp] theorem State.rdEncoded_onrd (s : State) (v : View) : (s.rdEncoded v).onrd = s.onrd := by simp [State.rdEncoded]
@[simp] theorem State.rdEncoded_ots (s : State) (v : View) : (s.rdEncoded v).ots = s.ots := by simp [State.rdEncoded]
@[simp] theorem State.rdEncoded_draws (s : State) (v : View) : (s.rdEncoded v).draws = s.draws := by
  simp [State.rdEncoded]
@[simp] theorem State.rdEncoded_pending (s : State) (v : View) : (s.rdEncoded v).pending = s.pending := by
  simp [State.rdEncoded]
@[simp] theorem State.rdEncoded_answers (s : State) (v : View) : (s.rdEncoded v).answers = s.answers := by
  simp [State.rdEncoded]

@[simp] theorem State.rdDecoded_buf (s : State) (v : View) : (s.rdDecoded v).buf = s.buf := by simp [State.rdDecoded]
@[simp] theorem State.rdDecoded_rdin (s : State) (v : View) : (s.rdDecoded v).rdin = s.rdin := by simp [State.rdDecoded]
@[simp] theorem State.rdDecoded_rdout (s : State) (v : View) :
    (s.rdDecoded v).rdout = s.rdout.set 0 (rdDecode v (s.memRead s.addr.toNat v.rw)) := by
  simp [State.rdDecoded]
@[simp] theorem State.rdDecoded_err (s : State) (v : View) : (s.rdDecoded v).err = .ok := by simp [State.rdDecoded]
@[simp] theorem State.rdDecoded_fovf (s : State) (v : View) : (s.rdDecoded v).fovf = false := by simp [State.rdDecoded]
@[simp] theorem State.rdDecoded_busy (s : State) (v : View) : (s.rdDecoded v).busy = s.busy := by simp [State.rdDecoded]
@[simp] theorem State.rdDecoded_tag (s : State) (v : View) : (s.rdDecoded v).tag = s.tag := by simp [State.rdDecoded]
@[simp] theorem State.rdDecoded_ext (s : State) (v : View) : (s.rdDecoded v).ext = s.ext := by simp [State.rdDecoded]
@[simp] theorem State.rdDecoded_addr (s : State) (v : View) : (s.rdDecoded v).addr = s.addr := by simp [State.rdDecoded]
@[simp] theorem State.rdDecoded_nrd (s : State) (v : View) : (s.rdDecoded v).nrd = s.nrd := by simp [State.rdDecoded]
@[simp] theorem State.rdDecoded_cap (s : State) (v : View) : (s.rdDecoded v).cap = s.cap := by simp [State.rdDecoded]
@[simp] theorem State.rdDecoded_inlen (s : State) (v : View) : (s.rdDecoded v).inlen = s.inlen := by
  simp [State.rdDecoded]
@[simp] theorem State.rdDecoded_ts (s : State) (v : View) : (s.rdDecoded v).ts = s.ts := by simp [State.rdDecoded]
@[simp] theorem State.rdDecoded_rlen (s : State) (v : View) : (s.rdDecoded v).rlen = BitVec.ofNat 9 v.rw := by
  simp [State.rdDecoded]
@[simp] theorem State.rdDecoded_otag (s : State) (v : View) : (s.rdDecoded v).otag = s.otag := by simp [State.rdDecoded]
@[simp] theorem State.rdDecoded_oext (s : State) (v : View) : (s.rdDecoded v).oext = s.oext := by simp [State.rdDecoded]
@[simp] theorem State.rdDecoded_onrd (s : State) (v : View) : (s.rdDecoded v).onrd = s.onrd := by simp [State.rdDecoded]
@[simp] theorem State.rdDecoded_ots (s : State) (v : View) : (s.rdDecoded v).ots = s.ots := by simp [State.rdDecoded]
@[simp] theorem State.rdDecoded_draws (s : State) (v : View) : (s.rdDecoded v).draws = s.draws := by
  simp [State.rdDecoded]
@[simp] theorem State.rdDecoded_pending (s : State) (v : View) : (s.rdDecoded v).pending = s.pending := by
  simp [State.rdDecoded]
@[simp] theorem State.rdDecoded_answers (s : State) (v : View) : (s.rdDecoded v).answers = s.answers := by
  simp [State.rdDecoded]

@[simp] theorem State.pktPacked_buf (s : State) (v : View) :
    (s.pktPacked v).buf = s.buf.writeList 0 (pktBytes s.tag v s.ts s.ext (s.readings s.nrd.toNat)) := by
  simp [State.pktPacked]
@[simp] theorem State.pktPacked_rdin (s : State) (v : View) : (s.pktPacked v).rdin = s.rdin := by simp [State.pktPacked]
@[simp] theorem State.pktPacked_rdout (s : State) (v : View) : (s.pktPacked v).rdout = s.rdout := by
  simp [State.pktPacked]
@[simp] theorem State.pktPacked_err (s : State) (v : View) : (s.pktPacked v).err = .ok := by simp [State.pktPacked]
@[simp] theorem State.pktPacked_fovf (s : State) (v : View) : (s.pktPacked v).fovf = tsOvf s.ts s.ext := by
  simp [State.pktPacked]
@[simp] theorem State.pktPacked_busy (s : State) (v : View) : (s.pktPacked v).busy = s.busy := by simp [State.pktPacked]
@[simp] theorem State.pktPacked_tag (s : State) (v : View) : (s.pktPacked v).tag = s.tag := by simp [State.pktPacked]
@[simp] theorem State.pktPacked_ext (s : State) (v : View) : (s.pktPacked v).ext = s.ext := by simp [State.pktPacked]
@[simp] theorem State.pktPacked_addr (s : State) (v : View) : (s.pktPacked v).addr = s.addr := by simp [State.pktPacked]
@[simp] theorem State.pktPacked_nrd (s : State) (v : View) : (s.pktPacked v).nrd = s.nrd := by simp [State.pktPacked]
@[simp] theorem State.pktPacked_cap (s : State) (v : View) : (s.pktPacked v).cap = s.cap := by simp [State.pktPacked]
@[simp] theorem State.pktPacked_inlen (s : State) (v : View) : (s.pktPacked v).inlen = s.inlen := by
  simp [State.pktPacked]
@[simp] theorem State.pktPacked_ts (s : State) (v : View) : (s.pktPacked v).ts = s.ts := by simp [State.pktPacked]
@[simp] theorem State.pktPacked_rlen (s : State) (v : View) :
    (s.pktPacked v).rlen = BitVec.ofNat 9 (pktTotal v s.ext s.nrd.toNat) := by
  simp [State.pktPacked]
@[simp] theorem State.pktPacked_otag (s : State) (v : View) : (s.pktPacked v).otag = s.otag := by simp [State.pktPacked]
@[simp] theorem State.pktPacked_oext (s : State) (v : View) : (s.pktPacked v).oext = s.oext := by simp [State.pktPacked]
@[simp] theorem State.pktPacked_onrd (s : State) (v : View) : (s.pktPacked v).onrd = s.onrd := by simp [State.pktPacked]
@[simp] theorem State.pktPacked_ots (s : State) (v : View) : (s.pktPacked v).ots = s.ots := by simp [State.pktPacked]
@[simp] theorem State.pktPacked_draws (s : State) (v : View) : (s.pktPacked v).draws = s.draws := by
  simp [State.pktPacked]
@[simp] theorem State.pktPacked_pending (s : State) (v : View) : (s.pktPacked v).pending = s.pending := by
  simp [State.pktPacked]
@[simp] theorem State.pktPacked_answers (s : State) (v : View) : (s.pktPacked v).answers = s.answers := by
  simp [State.pktPacked]

@[simp] theorem State.pktUnpacked_buf (s : State) (h : PktHeader) : (s.pktUnpacked h).buf = s.buf := by
  simp [State.pktUnpacked]
@[simp] theorem State.pktUnpacked_rdin (s : State) (h : PktHeader) : (s.pktUnpacked h).rdin = s.rdin := by
  simp [State.pktUnpacked]
@[simp] theorem State.pktUnpacked_rdout (s : State) (h : PktHeader) : (s.pktUnpacked h).rdout = s.records h := by
  simp [State.pktUnpacked]
@[simp] theorem State.pktUnpacked_err (s : State) (h : PktHeader) : (s.pktUnpacked h).err = .ok := by
  simp [State.pktUnpacked]
@[simp] theorem State.pktUnpacked_fovf (s : State) (h : PktHeader) : (s.pktUnpacked h).fovf = false := by
  simp [State.pktUnpacked]
@[simp] theorem State.pktUnpacked_busy (s : State) (h : PktHeader) : (s.pktUnpacked h).busy = s.busy := by
  simp [State.pktUnpacked]
@[simp] theorem State.pktUnpacked_tag (s : State) (h : PktHeader) : (s.pktUnpacked h).tag = s.tag := by
  simp [State.pktUnpacked]
@[simp] theorem State.pktUnpacked_ext (s : State) (h : PktHeader) : (s.pktUnpacked h).ext = s.ext := by
  simp [State.pktUnpacked]
@[simp] theorem State.pktUnpacked_addr (s : State) (h : PktHeader) : (s.pktUnpacked h).addr = s.addr := by
  simp [State.pktUnpacked]
@[simp] theorem State.pktUnpacked_nrd (s : State) (h : PktHeader) : (s.pktUnpacked h).nrd = s.nrd := by
  simp [State.pktUnpacked]
@[simp] theorem State.pktUnpacked_cap (s : State) (h : PktHeader) : (s.pktUnpacked h).cap = s.cap := by
  simp [State.pktUnpacked]
@[simp] theorem State.pktUnpacked_inlen (s : State) (h : PktHeader) : (s.pktUnpacked h).inlen = s.inlen := by
  simp [State.pktUnpacked]
@[simp] theorem State.pktUnpacked_ts (s : State) (h : PktHeader) : (s.pktUnpacked h).ts = s.ts := by
  simp [State.pktUnpacked]
@[simp] theorem State.pktUnpacked_rlen (s : State) (h : PktHeader) :
    (s.pktUnpacked h).rlen = BitVec.ofNat 9 (h.len + 1) := by
  simp [State.pktUnpacked]
@[simp] theorem State.pktUnpacked_otag (s : State) (h : PktHeader) : (s.pktUnpacked h).otag = s.byteAt 0 := by
  simp [State.pktUnpacked]
@[simp] theorem State.pktUnpacked_oext (s : State) (h : PktHeader) :
    (s.pktUnpacked h).oext = (tsUnpack (s.memRead 2 (tsWidth h.ext))).ext := by
  simp [State.pktUnpacked]
@[simp] theorem State.pktUnpacked_onrd (s : State) (h : PktHeader) :
    (s.pktUnpacked h).onrd = BitVec.ofNat 8 h.count := by
  simp [State.pktUnpacked]
@[simp] theorem State.pktUnpacked_ots (s : State) (h : PktHeader) :
    (s.pktUnpacked h).ots = { (tsUnpack (s.memRead 2 (tsWidth h.ext))).ts with dow := 0 } := by
  simp [State.pktUnpacked]
@[simp] theorem State.pktUnpacked_draws (s : State) (h : PktHeader) : (s.pktUnpacked h).draws = s.draws := by
  simp [State.pktUnpacked]
@[simp] theorem State.pktUnpacked_pending (s : State) (h : PktHeader) : (s.pktUnpacked h).pending = s.pending := by
  simp [State.pktUnpacked]
@[simp] theorem State.pktUnpacked_answers (s : State) (h : PktHeader) : (s.pktUnpacked h).answers = s.answers := by
  simp [State.pktUnpacked]

/-! ### The meanings, by their checks -/

theorem execTsPack_fits {s : State} (h : s.addr.toNat + tsWidth s.ext ≤ s.cape) :
    execTsPack s = .next s.tsPacked := if_neg (by omega)

theorem execTsPack_overflow {s : State} (h : s.cape < s.addr.toNat + tsWidth s.ext) :
    execTsPack s = .next (s.raise .bufferOverflow) := if_pos h

theorem execTsUnpack_ok {s : State} {w : Nat} (h : tsUnpackCheck s = .ok w) :
    execTsUnpack s = .next (s.tsUnpacked w) := by rw [execTsUnpack, h]; rfl

theorem execTsUnpack_error {s : State} {e : Err} (h : tsUnpackCheck s = .error e) :
    execTsUnpack s = .next (s.raise e) := by rw [execTsUnpack, h]

theorem execRdEncode_ok {s : State} {v : View} (h : rdEncodeCheck s = .ok v) :
    execRdEncode s = .next (s.rdEncoded v) := by rw [execRdEncode, h]; rfl

theorem execRdEncode_error {s : State} {e : Err} (h : rdEncodeCheck s = .error e) :
    execRdEncode s = .next (s.raise e) := by rw [execRdEncode, h]

theorem execRdDecode_ok {s : State} {v : View} (h : rdDecodeCheck s = .ok v) :
    execRdDecode s = .next (s.rdDecoded v) := by rw [execRdDecode, h]; rfl

theorem execRdDecode_error {s : State} {e : Err} (h : rdDecodeCheck s = .error e) :
    execRdDecode s = .next (s.raise e) := by rw [execRdDecode, h]

theorem execPktPack_ok {s : State} {v : View} (h : pktPackCheck s = .ok v) :
    execPktPack s = .next (s.pktPacked v) := by rw [execPktPack, h]; rfl

theorem execPktPack_error {s : State} {e : Err} (h : pktPackCheck s = .error e) :
    execPktPack s = .next (s.raise e) := by rw [execPktPack, h]

theorem execPktUnpack_ok {s : State} {h : PktHeader} (hc : pktUnpackCheck s = .ok h) :
    execPktUnpack s = .next (s.pktUnpacked h) := by rw [execPktUnpack, hc]; rfl

theorem execPktUnpack_error {s : State} {e : Err} (h : pktUnpackCheck s = .error e) :
    execPktUnpack s = .next (s.raise e) := by rw [execPktUnpack, h]

/-- Every outcome of a command: an error's state, or one of the six successes under its conditions. -/
theorem exec_cases (i : Instr) (s : State) :
    (∃ e, e ≠ .ok ∧ exec i s = .next (s.raise e)) ∨
    (i = .tsPack ∧ s.addr.toNat + tsWidth s.ext ≤ s.cape ∧ exec i s = .next s.tsPacked) ∨
    (i = .tsUnpack ∧ ∃ w, tsUnpackCheck s = .ok w ∧ exec i s = .next (s.tsUnpacked w)) ∨
    (i = .rdEncode ∧ ∃ v, rdEncodeCheck s = .ok v ∧ exec i s = .next (s.rdEncoded v)) ∨
    (i = .rdDecode ∧ ∃ v, rdDecodeCheck s = .ok v ∧ exec i s = .next (s.rdDecoded v)) ∨
    (i = .pktPack ∧ ∃ v, pktPackCheck s = .ok v ∧ exec i s = .next (s.pktPacked v)) ∨
    (i = .pktUnpack ∧ ∃ h, pktUnpackCheck s = .ok h ∧ exec i s = .next (s.pktUnpacked h)) := by
  cases i with
  | tsPack =>
    rcases Nat.lt_or_ge s.cape (s.addr.toNat + tsWidth s.ext) with h | h
    · exact .inl ⟨.bufferOverflow, by decide, execTsPack_overflow h⟩
    · exact .inr (.inl ⟨rfl, h, execTsPack_fits h⟩)
  | tsUnpack =>
    cases h : tsUnpackCheck s with
    | error e => exact .inl ⟨e, by rw [(tsUnpackCheck_error h).1]; decide, execTsUnpack_error h⟩
    | ok w => exact .inr (.inr (.inl ⟨rfl, w, rfl, execTsUnpack_ok h⟩))
  | rdEncode =>
    cases h : rdEncodeCheck s with
    | error e =>
      refine .inl ⟨e, ?_, execRdEncode_error h⟩
      rcases rdEncodeCheck_error h with ⟨rfl, _⟩ | ⟨rfl, _⟩ <;> decide
    | ok v => exact .inr (.inr (.inr (.inl ⟨rfl, v, rfl, execRdEncode_ok h⟩)))
  | rdDecode =>
    cases h : rdDecodeCheck s with
    | error e =>
      refine .inl ⟨e, ?_, execRdDecode_error h⟩
      rcases rdDecodeCheck_error h with ⟨rfl, _⟩ | ⟨rfl, _⟩ <;> decide
    | ok v => exact .inr (.inr (.inr (.inr (.inl ⟨rfl, v, rfl, execRdDecode_ok h⟩))))
  | pktPack =>
    cases h : pktPackCheck s with
    | error e =>
      refine .inl ⟨e, ?_, execPktPack_error h⟩
      rcases pktPackCheck_error h with ⟨rfl, _⟩ | ⟨rfl, _⟩ <;> decide
    | ok v => exact .inr (.inr (.inr (.inr (.inr (.inl ⟨rfl, v, rfl, execPktPack_ok h⟩)))))
  | pktUnpack =>
    cases h : pktUnpackCheck s with
    | error e =>
      refine .inl ⟨e, ?_, execPktUnpack_error h⟩
      rcases pktUnpackCheck_error h with ⟨rfl, _⟩ | ⟨rfl, _⟩ <;> decide
    | ok hd => exact .inr (.inr (.inr (.inr (.inr (.inr ⟨rfl, hd, rfl, execPktUnpack_ok h⟩)))))

end Sys2Proof.Machine
end

