-- ==== Sys2Proof/Laws/PerInstr.lean ====
section
/-! SUPPORT. A statement made of every command as syntax, one lemma per constructor. -/

namespace Sys2Proof.Laws.OneByteCode

open Sys2Proof.Machine

/-- R81, R82, R101: the command is one byte long, that byte read as a table word is the command again, and so is the
mnemonic by which a program names it. -/
def Statement (i : Instr) : Prop :=
  i.wellFormed = true ∧ (encode i).length = 1 ∧ decodeTableWord 8 (encodeCommand i).toNat = some i ∧
  commandOfName (commandName i).toList = some i

theorem tsPack : Statement .tsPack := by unfold Statement; decide

theorem tsUnpack : Statement .tsUnpack := by unfold Statement; decide

theorem rdEncode : Statement .rdEncode := by unfold Statement; decide

theorem rdDecode : Statement .rdDecode := by unfold Statement; decide

theorem pktPack : Statement .pktPack := by unfold Statement; decide

theorem pktUnpack : Statement .pktUnpack := by unfold Statement; decide

end Sys2Proof.Laws.OneByteCode
end

