-- ==== Sys2Proof/Laws/Step.lean ====
section
/-! SUPPORT. What a step can do, said once: every case of `step`, and the words and addresses it depends on. -/

namespace Sys2Proof.Machine

/-- A host address names register `r` exactly when it is `r`'s address in R22. -/
theorem locate_eq_reg (a : HostAddr) (r : Reg) : locate a = .reg r ↔ a.toNat = r.address := by
  constructor
  · intro h
    unfold locate at h
    split at h
    · cases h
    · split at h
      · cases h
      · split at h
        · cases h
        · split at h
          · next q hq => cases h; exact (by simpa using List.find?_some hq : r.address = a.toNat).symm
          · cases h
  · intro h
    have : a = BitVec.ofNat 12 r.address := by
      apply BitVec.eq_of_toNat_eq
      rw [BitVec.toNat_ofNat, ← h, Nat.mod_eq_of_lt a.isLt]
    subst this
    cases r <;> decide

/-- The only address of CMD is 0x300 (R22). -/
theorem locate_eq_cmd (a : HostAddr) : locate a = .reg .cmd ↔ a = 0x300#12 := by
  rw [locate_eq_reg, ← BitVec.toNat_inj]; rfl

/-- The only address of STATUS is 0x301 (R22). -/
theorem locate_eq_status (a : HostAddr) : locate a = .reg .status ↔ a = 0x301#12 := by
  rw [locate_eq_reg, ← BitVec.toNat_inj]; rfl

theorem pollsStatus_iff (t : HostTxn) : t.pollsStatus = true ↔ t = .read 0x301#12 := by
  cases t with
  | write a d => simp [HostTxn.pollsStatus]
  | read a => simp [HostTxn.pollsStatus, locate_eq_status]

theorem step_waits {s : State} (h : s.pending = []) : step s = .next s := by
  rw [step, h]

theorem step_reset {s : State} {rest : List HostInput} (h : s.pending = .reset :: rest) :
    step s = .next (State.resetWith (s.draws + 1) rest s.answers) := by
  rw [step, h]; rfl

theorem step_invalid {s : State} {w : Htw} {rest : List HostInput} {e : DecodeError}
    (h : s.pending = .word w :: rest) (hw : decodeHtw w = .error e) :
    step s = .refused .invalidProgramWord := by
  rw [step, h]; simp only [perform, hw]

theorem step_busy {s : State} {w : Htw} {rest : List HostInput} {t : HostTxn}
    (h : s.pending = .word w :: rest) (hw : decodeHtw w = .ok t) (hb : s.busy = true) (ht : t ≠ .read 0x301#12) :
    step s = .refused .transactionWhileBusy := by
  have : t.pollsStatus = false := by
    cases hp : t.pollsStatus with
    | false => rfl
    | true => exact absurd ((pollsStatus_iff t).1 hp) ht
  rw [step, h]; simp [perform, hw, hb, this]

theorem step_transacts {s : State} {w : Htw} {rest : List HostInput} {t : HostTxn}
    (h : s.pending = .word w :: rest) (hw : decodeHtw w = .ok t) (hb : s.busy = false ∨ t = .read 0x301#12) :
    step s = transact t { s with pending := rest } := by
  rw [step, h]
  simp only [perform, hw]
  rw [if_neg]
  rcases hb with hb | hb
  · simp [hb]
  · simp [(pollsStatus_iff t).2 hb]

/-- Every case of a step. -/
theorem step_cases (s : State) :
    (s.pending = [] ∧ step s = .next s) ∨
    (∃ rest, s.pending = .reset :: rest ∧ step s = .next (State.resetWith (s.draws + 1) rest s.answers)) ∨
    (∃ w rest, s.pending = .word w :: rest ∧
      ((∃ e, decodeHtw w = .error e ∧ step s = .refused .invalidProgramWord) ∨
       (∃ t, decodeHtw w = .ok t ∧
        ((s.busy = true ∧ t ≠ .read 0x301#12 ∧ step s = .refused .transactionWhileBusy) ∨
         ((s.busy = false ∨ t = .read 0x301#12) ∧ step s = transact t { s with pending := rest }))))) := by
  cases hp : s.pending with
  | nil => exact .inl ⟨rfl, step_waits hp⟩
  | cons inp rest =>
    cases inp with
    | reset => exact .inr (.inl ⟨rest, rfl, step_reset hp⟩)
    | word w =>
      refine .inr (.inr ⟨w, rest, rfl, ?_⟩)
      cases hw : decodeHtw w with
      | error e => exact .inl ⟨e, rfl, step_invalid hp hw⟩
      | ok t =>
        refine .inr ⟨t, rfl, ?_⟩
        by_cases hb : s.busy = true ∧ t ≠ .read 0x301#12
        · exact .inl ⟨hb.1, hb.2, step_busy hp hw hb.1 hb.2⟩
        · have : s.busy = false ∨ t = .read 0x301#12 := by
            rw [← Bool.not_eq_true]; tauto
          exact .inr ⟨this, step_transacts hp hw this⟩

theorem transact_read (a : HostAddr) (s : State) :
    transact (.read a) s = .next (s.answer (s.hostRead a)) := rfl

theorem transact_store {a : HostAddr} {d : Half} {s : State} (h : a ≠ 0x300#12) :
    transact (.write a d) s = .next (s.hostStore a d) := if_neg (mt (locate_eq_cmd a).1 h)

theorem transact_command {d : Half} {s : State} {i : Instr} (h : decodeCommand (d.extractLsb' 0 8) = .ok i) :
    transact (.write 0x300#12 d) s = exec i s := by
  simp only [transact]
  rw [if_pos ((locate_eq_cmd _).2 rfl), writeCommand, h]

theorem transact_illegal {d : Half} {s : State} {e : DecodeError}
    (h : decodeCommand (d.extractLsb' 0 8) = .error e) :
    transact (.write 0x300#12 d) s = .next (s.raise .illegalCommand) := by
  simp only [transact]
  rw [if_pos ((locate_eq_cmd _).2 rfl), writeCommand, h]

end Sys2Proof.Machine
end

