-- ==== Sys2Proof/Tests/Slice0.lean ====
section
/-! SUPPORT. Tests of the model. The expected values are those of spec 95_test_vectors.md (its vector is named in each
docstring) or are worked by hand from the rule cited. After them, one witness for each statement that has hypotheses. -/

namespace Sys2Proof.Tests

open Sys2Proof.Machine

/-! ## Helpers -/

/-- The outcome is a next state of which `p` holds. -/
def nextIs (o : Host.Outcome State Fault Refusal) (p : State → Bool) : Bool :=
  match o with
  | .next t => p t
  | .fault _ => false
  | .refused _ => false

theorem next_of_nextIs {o : Host.Outcome State Fault Refusal} {p : State → Bool} (h : nextIs o p = true) :
    ∃ t, o = .next t ∧ p t = true := by
  unfold nextIs at h
  split at h
  · exact ⟨_, rfl, h⟩
  · cases h
  · cases h

/-- The outcome is the refusal `r`. -/
def refusedAs (o : Host.Outcome State Fault Refusal) (r : Refusal) : Bool :=
  match o with
  | .next _ => false
  | .fault _ => false
  | .refused q => q == r

/-- BUF from offset 0. -/
def bufOf (bytes : List Byte) : Memory := Memory.writeList [] 0 bytes

/-- (5000, 5500, 4500, 345, 0x1234, 0x0987, 0x551F, 12034), the `Rsrc` of section 2.4. -/
def rsrc : Reading := ⟨5000, 5500, 4500, 345, 0x1234, 0x0987, 0x551F, 12034⟩

/-- The `R2` of section 2.5. -/
def r2 : Reading := ⟨100, 150, 80, 270, 0xFFF6, 1013, 45, 3700⟩

/-- `T17s` of section 2.5: 2017-12-01 12:03:44, day-of-week 0. -/
def t17s : Timestamp := ⟨44, 3, 12, 0, 1, 12, 2017⟩

/-- Just after reset, with CAP and INLEN 256 and two readings in RDIN. -/
def ready : State :=
  { State.reset with cap := 256, inlen := 256, rdin := ((Vector.replicate 32 Reading.zero).set 0 rsrc).set 1 r2 }

/-- `ready` with `ts`, `ext`, `addr` set. -/
def stamped (ts : Timestamp) (ext : Bool) (addr : Byte) : State :=
  { ready with ts := ts, ext := ext, addr := addr }

/-- `ready` with `tag`, `nrd` set. -/
def tagged (tag nrd : Byte) : State := { ready with tag := tag, nrd := nrd, ts := t17s, ext := true }

/-- `ready` with `bytes` in BUF and INLEN `n`. -/
def given (bytes : List Byte) (n : BitVec 9) : State := { ready with buf := bufOf bytes, inlen := n }

/-- The 14 bytes of PU5: an ENV packet with one reading. -/
def pu5 : List Byte := [0x04, 0x0D, 0x03, 0x0B, 0x1C, 0x7E, 0x34, 0x12, 0x87, 0x09, 0x1F, 0x55, 0x02, 0x2F]

/-- `s` with the word `w` as the host's only input. -/
def withWord (s : State) (w : Htw) : State := { s with pending := [.word w] }

/-! ## Decoding: words written out from R81 and R100 -/

theorem test_decode_ts_pack : decode [0b00000001#8] = .ok (.tsPack, []) := by decide

theorem test_decode_ts_unpack : decode [0b00000010#8] = .ok (.tsUnpack, []) := by decide

theorem test_decode_rd_encode : decode [0b00000011#8] = .ok (.rdEncode, []) := by decide

theorem test_decode_rd_decode : decode [0b00000100#8] = .ok (.rdDecode, []) := by decide

theorem test_decode_pkt_pack : decode [0b00000101#8] = .ok (.pktPack, []) := by decide

theorem test_decode_pkt_unpack : decode [0b00000110#8] = .ok (.pktUnpack, []) := by decide

/-- IC1, IC2. -/
theorem test_decode_illegal :
    [0x00#8, 0x07#8, 0x80#8, 0x81#8, 0xFF#8].all (fun op => decodeCommand op == .error (.illegalCommand op)) = true := by
  decide

theorem test_decode_nothing : decode [] = .error .noByte := by decide

/-- Program 1, line 1: `WR CAP, 256`. -/
theorem test_htw_write : decodeHtw 0b1_000_001100000110_0000000100000000#32 = .ok (.write 0x306#12 256#16) := by decide

/-- Program 1: `RD STATUS`. -/
theorem test_htw_read : decodeHtw 0b0_000_001100000001_0000000000000000#32 = .ok (.read 0x301#12) := by decide

/-- The host's own question of the table's first and last rows. -/
theorem test_table_words : decodeTableWord 8 0x01 = some .tsPack ∧ decodeTableWord 8 0x06 = some .pktUnpack ∧
    decodeTableWord 8 0x07 = none := by decide

theorem test_fetch_word_runs :
    nextIs (step (State.reset.withFetchWord 8 0x05)) (fun t => t.err == .unsupportedType) = true := by decide

/-! ## Well-formedness: what each check refuses -/

/-- R100: one nonzero reserved bit at each end of [30:28]. -/
theorem smoke_htw_reserved : htwWellFormed 0x93060100 = false ∧ htwWellFormed 0xC3060100 = false := by decide

/-- R100: a read with HDATA. -/
theorem smoke_htw_read_data : htwWellFormed 0x03010001 = false ∧ htwWellFormed 0x03018000 = false := by decide

theorem smoke_htw_accepts : htwWellFormed 0x83060100 = true ∧ htwWellFormed 0x03010000 = true := by decide

/-- R22: BUF ends at 255, RDIN and RDOUT at 31, an address has 12 bits. -/
theorem smoke_targets : (AsmTarget.buf 256).wellFormed = false ∧ (AsmTarget.rdin 32 .spd).wellFormed = false ∧
    (AsmTarget.rdout 32 .volt).wellFormed = false ∧ (AsmTarget.raw 0x1000).wellFormed = false := by decide

theorem smoke_value : (AsmLine.wr (.reg .cap) 65536).wellFormed = false ∧
    (AsmLine.wr (.reg .cap) 65535).wellFormed = true := by decide

theorem smoke_read_target : (AsmLine.rd (.buf 256) none).wellFormed = false := by decide

theorem smoke_wrbuf : (AsmLine.wrbuf 0 []).wellFormed = false ∧ (AsmLine.wrbuf 255 [1, 2]).wellFormed = false ∧
    (AsmLine.wrbuf 0 [65536]).wellFormed = false ∧ (AsmLine.wrbuf 254 [1, 2]).wellFormed = true := by decide

theorem smoke_wrrd : (AsmLine.wrrd 32 [0, 0, 0, 0, 0, 0, 0, 0]).wellFormed = false ∧
    (AsmLine.wrrd 0 [0, 0, 0, 0, 0, 0, 0]).wellFormed = false ∧
    (AsmLine.wrrd 0 [0, 0, 0, 0, 0, 0, 0, 65536]).wellFormed = false := by decide

theorem smoke_wrts : (AsmLine.wrts 0 0 0 0 0 0 65536).wellFormed = false ∧
    (AsmLine.wrts 0 70 12 3 1 12 2017).wellFormed = true := by decide

/-! ## TS_PACK -/

/-- TV2 at ADDR 0. -/
theorem test_ts_pack_extended :
    nextIs (exec .tsPack (stamped t17s true 0)) (fun t =>
      t.memRead 0 5 == [0x03, 0x0B, 0x1C, 0xFE, 0x2C] && t.rlen == 5 && t.statusByte == 0x00) = true := by decide

/-- Program 3: minute 70 at the end of BUF (TV3, W5). -/
theorem test_ts_pack_masks :
    nextIs (exec .tsPack (stamped ⟨0, 70, 12, 3, 1, 12, 2017⟩ false 252)) (fun t =>
      t.memRead 252 4 == [0x06, 0x0B, 0x1C, 0x7E] && t.rlen == 4 && t.statusByte == 0x08) = true := by decide

/-! ## TS_UNPACK -/

/-- TU3: the two top year bits. -/
theorem test_ts_unpack_year :
    nextIs (exec .tsUnpack (given [0x00, 0x00, 0x00, 0x80, 0xC0] 5)) (fun t =>
      t.ots == ⟨0, 0, 0, 0, 0, 0, 6144⟩ && t.oext && t.rlen == 5 && t.statusByte == 0x00) = true := by decide

/-- TB10: the fifth byte is not declared. -/
theorem test_ts_unpack_truncated :
    nextIs (exec .tsUnpack (given [0x03, 0x0B, 0x1C, 0xFE, 0x2C] 4)) (fun t =>
      t.ots == .zero && t.rlen == 0 && t.statusByte == 0x03) = true := by decide

/-! ## RD_ENCODE -/

/-- RV3, with the bytes at ADDR 248 (RB4's place): ENV fields, low byte first. -/
theorem test_rd_encode_env :
    nextIs (exec .rdEncode { tagged 0x04 0 with addr := 248 }) (fun t =>
      t.memRead 248 8 == [0x34, 0x12, 0x87, 0x09, 0x1F, 0x55, 0x02, 0x2F] && t.rlen == 8 && t.statusByte == 0x00)
      = true := by decide

/-- RB3: the tag is checked before the capacity. -/
theorem test_rd_encode_tag_first :
    nextIs (exec .rdEncode { tagged 0x06 0 with cap := 0 }) (fun t => t.statusByte == 0x01 && t.buf == []) = true := by
  decide

/-! ## RD_DECODE -/

/-- RV9: wind bytes under the ENV tag. -/
theorem test_rd_decode_env :
    nextIs (exec .rdDecode { given [0x88, 0x13, 0x7C, 0x15, 0x94, 0x11, 0x59, 0x01] 8 with tag := 0x04 }) (fun t =>
      t.rdout[0] == ⟨0, 0, 0, 0, 0x1388, 0x157C, 0x1194, 0x0159⟩ && t.rlen == 8 && t.statusByte == 0x00) = true := by
  decide

/-- RB12. -/
theorem test_rd_decode_truncated :
    nextIs (exec .rdDecode { ready with tag := 0x04, addr := 248, inlen := 255 }) (fun t => t.statusByte == 0x03)
      = true := by decide

/-! ## PKT_PACK -/

/-- PV2. -/
theorem test_pkt_pack_wind :
    nextIs (exec .pktPack (tagged 0x03 2)) (fun t =>
      t.memRead 0 23 == [0x03, 0x16, 0x03, 0x0B, 0x1C, 0xFE, 0x2C, 0x88, 0x13, 0x7C, 0x15, 0x94, 0x11, 0x59, 0x01,
        0x64, 0x00, 0x96, 0x00, 0x50, 0x00, 0x0E, 0x01] && t.rlen == 23 && t.statusByte == 0x00) = true := by decide

/-- PE8: the size does not wrap. -/
theorem test_pkt_pack_no_wrap :
    nextIs (exec .pktPack { tagged 0x02 255 with cap := 511 }) (fun t =>
      t.statusByte == 0x02 && t.buf == [] && t.rlen == 0) = true := by decide

/-! ## PKT_UNPACK -/

/-- PU5, with PU4's bytes after the packet. -/
theorem test_pkt_unpack_env :
    nextIs (exec .pktUnpack (given (pu5 ++ [0xAA, 0xBB]) 256)) (fun t =>
      t.otag == 0x04 && t.onrd == 1 && t.ots == ⟨0, 3, 12, 0, 1, 12, 2017⟩ && t.rlen == 14 && t.statusByte == 0x00 &&
      t.rdout[0] == ⟨0, 0, 0, 0, 0x1234, 0x0987, 0x551F, 0x2F02⟩ && t.rdout[1] == Reading.zero &&
      t.rdout[31] == Reading.zero) = true := by decide

/-- PX8: a length that falls mid-reading. -/
theorem test_pkt_unpack_mid_reading :
    nextIs (exec .pktUnpack { given pu5 256 with buf := (bufOf pu5).write 1 0x0C, onrd := 7 }) (fun t =>
      t.statusByte == 0x03 && t.rlen == 0 && t.onrd == 7) = true := by decide

/-! ## The host port -/

/-- IC3: the high byte of the data is ignored. -/
theorem test_port_command : nextIs (step (withWord (tagged 0x04 0) 0x83000105)) (fun t => t.rlen == 7) = true := by
  decide

/-- IC1. -/
theorem test_port_illegal :
    nextIs (step (withWord { ready with rlen := 9 } 0x83000000)) (fun t => t.statusByte == 0x04 && t.rlen == 0)
      = true := by decide

/-- IC7, IC8, IC9: the width of each target. -/
theorem test_port_widths :
    nextIs (transact (.write 0x306#12 0xFFFF#16) ready) (fun t => t.hostRead 0x306#12 == 0x01FF) = true ∧
    nextIs (transact (.write 0x303#12 0x0002#16) ready) (fun t => t.hostRead 0x303#12 == 0x0000) = true ∧
    nextIs (transact (.write 0x007#12 0x1234#16) ready) (fun t => t.hostRead 0x007#12 == 0x0034) = true := by decide

/-- IC10, IC6, IC5: writes that are ignored. -/
theorem test_port_ignored :
    nextIs (transact (.write 0x200#12 5#16) { ready with rdout := Vector.replicate 32 r2 })
      (fun t => t.hostRead 0x200#12 == 100) = true ∧
    nextIs (transact (.write 0x30F#12 0x1234#16) ready) (fun t => t.hostRead 0x30F#12 == 0) = true ∧
    nextIs (transact (.write 0x301#12 0xFF#16) ready) (fun t => t.hostRead 0x301#12 == 0) = true := by decide

/-- R27: `RDIN[1].DIR` is at 0x10B (program 2). -/
theorem test_port_rdin :
    nextIs (transact (.write 0x10B#12 0x010E#16) ready) (fun t => t.rdin[1].dir == 0x010E) = true := by decide

/-- R21: a read hands its data to the host. -/
theorem test_port_read :
    nextIs (step (withWord { ready with rlen := 22 } 0x03100000)) (fun t => t.answers == [22] && t.pending == [])
      = true := by decide

/-- R100. -/
theorem test_port_refuses : refusedAs (step (withWord ready 0x03010001)) .invalidProgramWord = true := by decide

/-- R260. -/
theorem test_port_busy :
    refusedAs (step (withWord { ready with busy := true } 0x03100000)) .transactionWhileBusy = true := by decide

/-- R250. -/
theorem test_port_reset :
    nextIs (step { ready with pending := [.reset] }) (fun t => t.cap == 0 && t.draws == 1 && t.buf == []) = true := by
  decide

/-! ## The assembler's form: lines of section 3 -/

theorem test_asm_write : parseLine "WR CAP, 256" = some (.wr (.reg .cap) 256) := by decide

theorem test_asm_read : parseLine "RD RDOUT[1].TEMP ; -> 0 (not carried by WIND)" = some (.rd (.rdout 1 .temp) (some 0)) := by
  decide

theorem test_asm_raw : parseLine "WR @0x30F, 0x1234" = some (.wr (.raw 0x30F) 0x1234) := by decide

theorem test_asm_words :
    assemble [.wrts 44 3 12 0 1 12 2017, .command .pktPack, .rd (.reg .status) none] =
      [0x8308002C, 0x83090003, 0x830A000C, 0x830B0000, 0x830C0001, 0x830D000C, 0x830E07E1, 0x83000005, 0x03010000] := by
  decide

/-! ## Witnesses -/

/-- `CommandBytesRoundTrip`. -/
theorem witness_command_bytes : Instr.pktUnpack.wellFormed = true ∧ decode [0x06#8, 0xFF#8] = .ok (.pktUnpack, [0xFF#8]) := by
  decide

/-- `HostWordRoundTrip`. -/
theorem witness_host_word : decodeHtw 0xFFFFFFFF = .error .reservedBits ∧
    decodeHtw 0x8FFFFFFF = .ok (.write 0xFFF#12 0xFFFF#16) ∧ decodeHtw 0x0FFF0000 = .ok (.read 0xFFF#12) := by decide

/-- `HostWordFieldsAndRefusal`: each clause. -/
theorem witness_host_word_fields :
    ((0x90000000#32).toNat / 2 ^ 28 % 8 ≠ 0) ∧
    ((0x0FFF0001#32).toNat < 2 ^ 31 ∧ (0x0FFF0001#32).toNat % 2 ^ 16 ≠ 0) ∧
    ((0x80000000#32).toNat / 2 ^ 28 % 8 = 0 ∧ 2 ^ 31 ≤ (0x80000000#32).toNat) ∧
    ((0x0FFF0000#32).toNat / 2 ^ 28 % 8 = 0 ∧ (0x0FFF0000#32).toNat < 2 ^ 31 ∧ (0x0FFF0000#32).toNat % 2 ^ 16 = 0) := by
  decide

/-- `PseudoInstructionsExpand`: the last byte of BUF. -/
theorem witness_pseudo : 254 + [7, 9].length ≤ 256 ∧ 1 < [7, 9].length := by decide

/-- `StepPerformsTheNextInput`, `StepRunsDecodedCommand`. -/
theorem witness_step_runs : ∃ (s : State) (w : Htw) (rest : List HostInput) (d : Half) (i : Instr),
    s.pending = .word w :: rest ∧ s.busy = false ∧ decodeHtw w = .ok (.write 0x300#12 d) ∧
    decode [d.setWidth 8] = .ok (i, []) ∧ i.wellFormed = true :=
  ⟨withWord ready 0x83000105, 0x83000105, [], 0x0105, .pktPack, rfl, rfl, by decide, by decide, rfl⟩

/-- `FetchWordRunsTableWord`. -/
theorem witness_fetch : decodeTableWord 8 0x03 = some .rdEncode := by decide

/-- `IllegalCodeRaisesIllegalCommand`: the first code, the first and the last above the map. -/
theorem witness_illegal : (0x0100#16).toNat % 256 = 0 ∧ 7 ≤ (0x0007#16).toNat % 256 ∧ 7 ≤ (0xFFFF#16).toNat % 256 := by
  decide

/-- `HostReadStepOnlyAnswers`. -/
theorem witness_read_step : (withWord ready 0x03010000).pending = [.word 0x03010000] ∧
    (withWord ready 0x03010000).busy = false ∧ decodeHtw 0x03010000 = .ok (.read 0x301#12) :=
  ⟨rfl, rfl, by decide⟩

/-- `HostWriteStepOnlyStores`: the addresses on both sides of CMD. -/
theorem witness_write_step : (withWord ready 0x83010005).pending = [.word 0x83010005] ∧
    (withWord ready 0x83010005).busy = false ∧ decodeHtw 0x83010005 = .ok (.write 0x301#12 5#16) ∧
    decodeHtw 0x82FF0005 = .ok (.write 0x2FF#12 5#16) ∧ (0x301#12 ≠ 0x300#12) ∧ (0x2FF#12 ≠ 0x300#12) :=
  ⟨rfl, rfl, by decide, by decide, by decide, by decide⟩

/-- `BlockWaitsForTheHost`. -/
theorem witness_waits : ready.pending = [] := rfl

/-- `BusyAdmitsOnlyStatusReads`: each clause. -/
theorem witness_busy : ∃ s : State, s.busy = true ∧ s.pending = [.word 0x03010000] ∧
    decodeHtw 0x03010000 = .ok (.read 0x301#12) ∧ decodeHtw 0x83010000 = .ok (.write 0x301#12 0#16) ∧
    HostTxn.write 0x301#12 0#16 ≠ .read 0x301#12 :=
  ⟨{ withWord ready 0x03010000 with busy := true }, rfl, rfl, by decide, by decide, by decide⟩

/-- `ReservedAndReadOnlyAddresses`: the ends of every range. -/
theorem witness_reserved :
    [0x314#12, 0x317#12].all (fun a => 0x314 ≤ a.toNat && a.toNat ≤ 0x317) = true ∧
    [0x31F#12, 0xFFF#12].all (fun a => 0x31F ≤ a.toNat) = true ∧
    [0x200#12, 0x2FF#12].all (fun a => 0x200 ≤ a.toNat && a.toNat ≤ 0x2FF) = true ∧
    [0x310#12, 0x313#12].all (fun a => 0x310 ≤ a.toNat && a.toNat ≤ 0x313) = true ∧
    [0x318#12, 0x31E#12].all (fun a => 0x318 ≤ a.toNat && a.toNat ≤ 0x31E) = true := by decide

/-- `HostReadsTheAddressMap`: the last offset of BUF; `witness_reserved` shows the ends of its reserved rows. -/
theorem witness_address_map : 0xFF < 0x100 := by decide

/-- `HostWriteThenRead`: the ends of the ranges, and an address beside each. -/
theorem witness_write_read :
    (0x0FF#12).toNat < 0x100 ∧ (0x100 ≤ (0x100#12).toNat ∧ (0x100#12).toNat < 0x200) ∧
    (0x100 ≤ (0x1FF#12).toNat ∧ (0x1FF#12).toNat < 0x200) ∧
    (0x302#12).toNat ∈ [0x302, 0x304, 0x305, 0x308, 0x309, 0x30A, 0x30B, 0x30C, 0x30D] ∧
    (0x30D#12).toNat ∈ [0x302, 0x304, 0x305, 0x308, 0x309, 0x30A, 0x30B, 0x30C, 0x30D] ∧
    (0x307#12).toNat ∈ [0x306, 0x307] ∧ (0x30E#12 ≠ 0x30D#12) := by decide

/-- `TimestampInverse`: each clause. -/
theorem witness_ts_inverse : (0x7F#8).getLsbD 7 = false ∧ (0x80#8).getLsbD 7 = true := by decide

/-- `TsPackMeaning`: just inside and just past the capacity (TB4, TB5). -/
theorem witness_ts_pack :
    ((stamped t17s false 252).addr.toNat + 4 ≤ min (stamped t17s false 252).cap.toNat 256) ∧
    (min (stamped t17s true 252).cap.toNat 256 < (stamped t17s true 252).addr.toNat + 5) := by decide

/-- `TsUnpackMeaning`: the hypothesis on `b`, and each clause (TB11, TB10, TB9). -/
theorem witness_ts_unpack :
    (∃ b : Nat → Nat, ∀ k, b k = ((given pu5 3).byteAt ((given pu5 3).addr.toNat + k)).toNat) ∧
    min (given pu5 3).inlen.toNat 256 < (given pu5 3).addr.toNat + 4 ∧
    (0 + 4 ≤ min (given [0, 0, 0, 0x80] 4).inlen.toNat 256 ∧ 128 ≤ ((given [0, 0, 0, 0x80] 4).byteAt 3).toNat ∧
      min (given [0, 0, 0, 0x80] 4).inlen.toNat 256 < 0 + 5) ∧
    (0 + 4 ≤ min (given [0, 0, 0, 0x7F] 4).inlen.toNat 256 ∧ ((given [0, 0, 0, 0x7F] 4).byteAt 3).toNat < 128) ∧
    (0 + 5 ≤ min (given [0, 0, 0, 0x80, 0] 5).inlen.toNat 256 ∧
      128 ≤ ((given [0, 0, 0, 0x80, 0] 5).byteAt 3).toNat) :=
  ⟨⟨_, fun _ => rfl⟩, by decide, by decide, by decide, by decide⟩

/-- `UnpackersReadTheirOffsets`. -/
theorem witness_unpackers : ∃ (s : List Byte) (w : Nat → Half), (∀ k, w k = s.getD (k + 1) 0 ++ s.getD k 0) ∧
    16 ≤ s.length :=
  ⟨List.replicate 16 0xA5, _, fun _ => rfl, by decide⟩

/-- `ReadingInverse`. -/
theorem witness_reading_inverse : (List.replicate 8 (0xFF : Byte)).length = View.env.rw := by decide

/-- `RdEncodeMeaning`: no view, past the capacity, just inside it (RB1, RB7, RB6). -/
theorem witness_rd_encode :
    viewOf (tagged 0x06 0).tag = none ∧ viewOf (tagged 0x02 0).tag = some .full ∧
    min (tagged 0x02 0).cap.toNat 256 < (241#8).toNat + View.full.rw ∧
    (240#8).toNat + View.full.rw ≤ min (tagged 0x02 0).cap.toNat 256 := by decide

/-- `RdDecodeMeaning`: no view, past the declared input, just inside it (RB9, RB12, RB11). -/
theorem witness_rd_decode :
    viewOf (tagged 0x05 0).tag = none ∧ viewOf (tagged 0x04 0).tag = some .env ∧
    min (255#9).toNat 256 < (248#8).toNat + View.env.rw ∧ (248#8).toNat + View.env.rw ≤ min (511#9).toNat 256 := by
  decide

/-- `PacketBytesLayout`, `FramerSequenceWritesThePacket`: the largest extended WIND packet (R97). -/
theorem witness_packet : Memory.wf (bufOf pu5) ∧
    2 + 5 + (List.replicate 31 rsrc).length * View.wind.rw ≤ 256 ∧ 30 < (List.replicate 31 rsrc).length := by decide

/-- `PktPackMeaning`: no view, past the capacity, and just inside it (PE2, PE4, PE5). -/
theorem witness_pkt_pack :
    viewOf (tagged 0x06 0).tag = none ∧ viewOf (tagged 0x02 1).tag = some .full ∧
    min (22#9).toNat 256 < 2 + 5 + (tagged 0x02 1).nrd.toNat * View.full.rw ∧
    2 + 5 + (tagged 0x02 1).nrd.toNat * View.full.rw ≤ min (23#9).toNat 256 := by decide

/-- `LargestReadingCounts`: PKT_PACK succeeds with 31 WIND readings (PV6, PV7). -/
theorem witness_largest : viewOf (tagged 0x03 31).tag = some .wind ∧ 256 ≤ (tagged 0x03 31).cap.toNat ∧
    (tagged 0x03 31).nrd.toNat = 31 ∧ Succeeds (exec .pktPack (tagged 0x03 31)) := by
  refine ⟨by decide, by decide, by decide, ?_⟩
  obtain ⟨t, h, ho⟩ := next_of_nextIs (o := exec .pktPack (tagged 0x03 31)) (p := fun t => t.err == .ok) (by decide)
  exact ⟨t, h, by simpa using ho⟩

/-- `PktUnpackMeaning`: each clause (PX1, PX3, PX5, PX6, PX7, PX8, PU5). -/
theorem witness_pkt_unpack :
    min (given pu5 1).inlen.toNat 256 < 2 ∧ viewOf ((given [0x06] 2).byteAt 0) = none ∧
    viewOf ((given pu5 14).byteAt 0) = some .env ∧ ((given [0x04, 0x04] 2).byteAt 1).toNat < 5 ∧
    min (given pu5 13).inlen.toNat 256 < ((given pu5 13).byteAt 1).toNat + 1 ∧
    (((given [0x02, 5, 0, 0, 0, 0x80] 6).byteAt 5).getLsbD 7 = true ∧
      ((given [0x02, 5, 0, 0, 0, 0x80] 6).byteAt 1).toNat < 1 + 5) ∧
    (12 - 1 - 4) % View.env.rw ≠ 0 ∧
    (5 ≤ ((given pu5 14).byteAt 1).toNat ∧ ((given pu5 14).byteAt 1).toNat + 1 ≤ min (given pu5 14).inlen.toNat 256 ∧
      ((given pu5 14).byteAt 5).getLsbD 7 = false ∧ 1 + 4 ≤ ((given pu5 14).byteAt 1).toNat ∧
      (((given pu5 14).byteAt 1).toNat - 1 - 4) % View.env.rw = 0) := by decide

/-- `BytesPastThePacketAreIgnored`, with another byte after the packet; the clause of `UnpackFormComesFromData` on
PKT_UNPACK. -/
theorem witness_bytes_past : (∃ t, exec .pktUnpack (given pu5 14) = .next t ∧ (t.err == .ok) = true) ∧
    (given pu5 14).byteAt 1 = 0x0D ∧
    ∀ a, a ≤ ((given pu5 14).byteAt 1).toNat →
      State.byteAt { given pu5 14 with buf := bufOf (pu5 ++ [0x99]) } a = (given pu5 14).byteAt a :=
  ⟨next_of_nextIs (by decide), by decide, by decide⟩

/-- `LengthPrefixIsTotalMinusOne`, `PacketRoundTrip` (with INLEN = RLEN), `PacksWriteInsideTheirRange`. -/
theorem witness_packed : ∃ t, exec .pktPack (tagged 0x04 1) = .next t ∧
    (t.err == .ok && decide (t.rlen.toNat ≤ (15#9).toNat)) = true :=
  next_of_nextIs (by decide)

/-- `FramingTerminates`: an ENV packet of one reading in BUF. -/
theorem witness_framing : viewOf 0x04 = some .env ∧ 2 + 4 + [rsrc].length * View.env.rw = 14 ∧
    (given pu5 14).memRead 0 14 = pktBytes 0x04 .env ⟨0, 3, 12, 0, 1, 12, 2017⟩ false [rsrc] ∧
    14 ≤ (given pu5 14).inlen.toNat := by decide

/-- `ReferenceLoopAgrees`. -/
theorem witness_reference : 31 ≤ 31 ∧ 30 < 31 := by decide

/-- The statements over every command (`RlenCountsBytes`, `CommandsKeepTheirOperands`, `OutputsHaveTheirWriters`,
`FovfReportsMaskedPacks`, `UnsupportedTypeIsForTagsWithoutView`): a success of each. -/
theorem witness_successes :
    (∃ t, exec .tsPack (stamped t17s true 0) = .next t ∧ (t.err == .ok) = true) ∧
    (∃ t, exec .tsUnpack (given (pu5.drop 2) 4) = .next t ∧ (t.err == .ok && !t.oext) = true) ∧
    (∃ t, exec .rdEncode (tagged 0x02 0) = .next t ∧ (t.err == .ok) = true) ∧
    (∃ t, exec .rdDecode { given pu5 8 with tag := 0x03 } = .next t ∧ (t.err == .ok) = true) ∧
    (∃ t, exec .pktPack (tagged 0x03 2) = .next t ∧ (t.err == .ok) = true) ∧
    (∃ t, exec .pktUnpack (given pu5 14) = .next t ∧ (t.err == .ok) = true) := by
  refine ⟨?_, ?_, ?_, ?_, ?_, ?_⟩ <;> exact next_of_nextIs (by decide)

/-- `FailedCommandFailsAgain`, and the clauses on errors of the statements over every command. -/
theorem witness_failure : ∃ t, exec .rdDecode (tagged 0x06 0) = .next t ∧ (t.err != .ok) = true :=
  next_of_nextIs (by decide)

/-- `UnsupportedTypeIsForTagsWithoutView`: the tags beside the map. -/
theorem witness_unsupported : (0x05#8) ≠ 0x02#8 ∧ (0x05#8) ≠ 0x03#8 ∧ (0x05#8) ≠ 0x04#8 ∧
    2 ≤ (given [0x06] 2).inlen.toNat ∧ (given [0x06] 2).byteAt 0 = 0x06#8 := by decide

/-- `CapAndInlenMustBeSet`. -/
theorem witness_cap_inlen : State.reset.cap = 0 ∧ State.reset.inlen = 0 ∧ viewOf 0x02 = some .full := by decide

/-- `CommandsAreIdempotent`. -/
theorem witness_idempotent : (given pu5 14).buf.wf ∧
    ∃ t, exec .tsPack { given pu5 14 with addr := 250 } = .next t ∧ (t.err == .ok) = true :=
  ⟨by decide, next_of_nextIs (by decide)⟩

/-- `UnpacksReadOnlyDeclaredInput`: memories that differ at the first undeclared offset. -/
theorem witness_declared : (∃ t, exec .tsUnpack (given pu5 4) = .next t ∧ (t.err == .ok) = true) ∧
    ∀ a, a < min (given pu5 4).inlen.toNat 256 →
      State.byteAt { given pu5 4 with buf := bufOf ((pu5.take 4) ++ [0xFF]) } a = (given pu5 4).byteAt a :=
  ⟨next_of_nextIs (by decide), by decide⟩

/-- `UnpackFormComesFromData`, its clause on TS_UNPACK (TB14). -/
theorem witness_form : ∃ t, exec .tsUnpack { given [0x03, 0x0B, 0x1C, 0x7E] 4 with ext := true } = .next t ∧
    (t.err == .ok && !t.oext) = true :=
  next_of_nextIs (by decide)

/-- `StepKeepsInvariant`, `OnlyInvalidWordsStop`: a state of the invariant that is not the reset state, with a valid
input and with an invalid one. -/
theorem witness_invariant : ∃ s t : State, s.Inv ∧ s.buf ≠ [] ∧ s.nextInputValid ∧ step s = .next t ∧
    htwWellFormed 0x83000006 = true ∧ htwWellFormed 0x03000006 = false := by
  obtain ⟨t, ht, _⟩ := next_of_nextIs (o := step (withWord (given pu5 14) 0x83000006)) (p := fun t => t.err == .ok)
    (by decide)
  refine ⟨_, t, ?_, by decide, ?_, ht, by decide, by decide⟩
  · refine ⟨by decide, by decide, by decide, by decide, by decide, by decide, .inl (by decide), ?_⟩
    constructor <;> decide
  · intro w rest h
    have : w = 0x83000006 := by simpa [withWord] using (List.cons.inj h).1.symm
    subst this
    decide

end Sys2Proof.Tests
end

section
/-! The host port's reserved and read-only addresses (10_state.md R22, R24), and RLEN after each command (R38). -/

namespace Sys2Proof.Machine

/-! ## Addresses whose writes store nothing -/

/-- The addresses that no row of R22 names. -/
theorem locate_reserved {a : HostAddr}
    (h : a = 0x30F#12 ∨ (0x314 ≤ a.toNat ∧ a.toNat ≤ 0x317) ∨ 0x31F ≤ a.toNat) : locate a = .reserved := by
  rw [← BitVec.toNat_inj] at h
  have hr : a.toNat = 0x30F ∨ (0x314 ≤ a.toNat ∧ a.toNat ≤ 0x317) ∨ 0x31F ≤ a.toNat := h
  have hnone : Reg.all.find? (fun r => r.address == a.toNat) = none := by
    simp only [List.find?_eq_none, beq_iff_eq]
    rintro r -
    cases r <;> simp only [Reg.address] <;> omega
  rw [locate, if_neg (by omega), if_neg (by omega), if_neg (by omega), hnone]

/-- The address range of RDOUT (R22, R28). -/
theorem locate_rdout {a : HostAddr} (h : 0x200 ≤ a.toNat ∧ a.toNat ≤ 0x2FF) : ∃ i f, locate a = .rdout i f := by
  refine ⟨readingIndex (a.toNat - 0x200), Field.ofIndex (a.toNat - 0x200), ?_⟩
  rw [locate, if_neg (by omega), if_neg (by omega), if_pos (by omega)]

/-- Each of these addresses is that of a register the host cannot write and that is not CMD (R22). -/
theorem locate_readOnly_reg {a : HostAddr}
    (h : a = 0x301#12 ∨ (0x310 ≤ a.toNat ∧ a.toNat ≤ 0x313) ∨ (0x318 ≤ a.toNat ∧ a.toNat ≤ 0x31E)) :
    ∃ r : Reg, r.readWrite = false ∧ locate a = .reg r := by
  rw [← BitVec.toNat_inj] at h
  have hr : a.toNat = 0x301 ∨ (0x310 ≤ a.toNat ∧ a.toNat ≤ 0x313) ∨ (0x318 ≤ a.toNat ∧ a.toNat ≤ 0x31E) := h
  have hmem : a.toNat ∈ (Reg.all.filter fun r => !r.readWrite).map Reg.address := by
    simp only [Reg.all, List.cons_append, List.nil_append, List.filter, Reg.readWrite, Bool.not_true, Bool.not_false,
      List.map_cons, List.map_nil, Reg.address, List.mem_cons, List.not_mem_nil, or_false]
    omega
  obtain ⟨r, hro, hadr⟩ := List.mem_map.1 hmem
  exact ⟨r, by simpa using (List.mem_filter.1 hro).2, (locate_eq_reg a r).2 hadr.symm⟩

theorem State.writeReg_readOnly (s : State) {r : Reg} (h : r.readWrite = false) (d : Half) : s.writeReg r d = s := by
  cases r <;> cases h <;> rfl

theorem State.hostStore_reserved (s : State) {a : HostAddr} (h : locate a = .reserved) (d : Half) :
    s.hostStore a d = s := by rw [State.hostStore, h]

theorem State.hostStore_rdout (s : State) {a : HostAddr} {i : Fin 32} {f : Field} (h : locate a = .rdout i f)
    (d : Half) : s.hostStore a d = s := by rw [State.hostStore, h]

theorem State.hostStore_reg (s : State) {a : HostAddr} {r : Reg} (h : locate a = .reg r) (d : Half) :
    s.hostStore a d = s.writeReg r d := by rw [State.hostStore, h]

theorem State.hostRead_reserved (s : State) {a : HostAddr} (h : locate a = .reserved) : s.hostRead a = 0 := by
  rw [State.hostRead, h]

theorem State.hostRead_reg (s : State) {a : HostAddr} {r : Reg} (h : locate a = .reg r) :
    s.hostRead a = s.readReg r := by rw [State.hostRead, h]

/-- Settles O19: the address decides the row of R22, and a write off CMD to a reserved or read-only row stores
nothing. -/
theorem reservedAndReadOnlyAddresses : Obligations.ReservedAndReadOnlyAddresses := by
  unfold Obligations.ReservedAndReadOnlyAddresses
  intro s a d
  refine ⟨fun h => ?_, fun h => ?_, s.hostRead_reg ((locate_eq_cmd _).2 rfl), _, transact_read a s, rfl⟩
  · have hres := locate_reserved h
    have hcmd : a ≠ 0x300#12 := by rintro rfl; simp at h
    exact ⟨s.hostRead_reserved hres, by rw [transact_store hcmd, s.hostStore_reserved hres]⟩
  · have hcmd : a ≠ 0x300#12 := by rintro rfl; simp at h
    rw [transact_store hcmd]
    rcases h with h | h
    · obtain ⟨i, f, hloc⟩ := locate_rdout h
      rw [s.hostStore_rdout hloc]
    · obtain ⟨r, hro, hloc⟩ := locate_readOnly_reg h
      rw [s.hostStore_reg hloc, s.writeReg_readOnly hro]

/-! ## RLEN -/

/-- A byte count of at most the buffer's size fits RLEN's 9 bits (R38). -/
theorem rlen_toNat {n : Nat} (h : n ≤ 256) : (BitVec.ofNat 9 n).toNat = n := by
  rw [BitVec.toNat_ofNat, Nat.mod_eq_of_lt (by omega)]

/-- The record size of a tag with a view (R90): the full view alone has 16 bytes. -/
theorem rw_of_viewOf {tag : Byte} {v : View} (h : viewOf tag = some v) : v.rw = if tag = 0x02 then 16 else 8 := by
  rcases viewOf_eq_some.1 h with ⟨rfl, rfl⟩ | ⟨rfl, rfl⟩ | ⟨rfl, rfl⟩ <;> rfl

theorem State.tsPacked_rlen_toNat (s : State) : s.tsPacked.rlen.toNat = if s.ext then 5 else 4 := by
  have hle := (tsWidth_bounds s.ext).2
  rw [tsPacked_rlen, rlen_toNat (by omega), tsWidth_eq]

/-- The width TsUnpack reports is that of the form it reports (R121, R87). -/
theorem tsUnpack_width (bytes : List Byte) : (tsUnpack bytes).width = tsWidth (tsUnpack bytes).ext := rfl

theorem State.tsUnpacked_rlen_toNat (s : State) (w : Nat) :
    (s.tsUnpacked w).rlen.toNat = if (s.tsUnpacked w).oext then 5 else 4 := by
  have hle := (tsWidth_bounds (s.tsUnpacked w).oext).2
  rw [tsUnpacked_rlen, tsUnpack_width, ← tsUnpacked_oext, rlen_toNat (by omega), tsWidth_eq]

/-- RLEN after RD_ENCODE and after RD_DECODE is the record size of TAG's view (R160, R162). -/
theorem rw_rlen_toNat {tag : Byte} {v : View} (h : viewOf tag = some v) :
    (BitVec.ofNat 9 v.rw).toNat = if tag = 0x02 then 16 else 8 := by
  rw [← rw_of_viewOf h]
  cases v <;> rfl

theorem State.rdEncoded_rlen_toNat {s : State} {v : View} (h : rdEncodeCheck s = .ok v) :
    (s.rdEncoded v).rlen.toNat = if s.tag = 0x02 then 16 else 8 := by
  rw [rdEncoded_rlen, rw_rlen_toNat (rdEncodeCheck_ok.1 h).1]

theorem State.rdDecoded_rlen_toNat {s : State} {v : View} (h : rdDecodeCheck s = .ok v) :
    (s.rdDecoded v).rlen.toNat = if s.tag = 0x02 then 16 else 8 := by
  rw [rdDecoded_rlen, rw_rlen_toNat (rdDecodeCheck_ok.1 h).1]

/-- RLEN after a successful PKT_PACK does not wrap, since the capacity check bounds the packet (R183). -/
theorem State.pktPacked_rlen_toNat {s : State} {v : View} (h : pktPackCheck s = .ok v) :
    (s.pktPacked v).rlen.toNat =
      2 + (if s.ext then 5 else 4) + s.nrd.toNat * (if s.tag = 0x02 then 16 else 8) := by
  obtain ⟨hview, hfits⟩ := pktPackCheck_ok.1 h
  rw [pktPacked_rlen, rlen_toNat (hfits.trans s.cape_le), pktTotal, tsWidth_eq, rw_of_viewOf hview]

/-- RLEN after a successful PKT_UNPACK: the length byte of the packet, plus one (R38). -/
theorem State.pktUnpacked_rlen_toNat {s : State} {h : PktHeader} (hc : pktUnpackCheck s = .ok h) :
    (s.pktUnpacked h).rlen.toNat = (s.byteAt 1).toNat + 1 := by
  have hframed := pktUnpackCheck_ok.1 hc
  rw [pktUnpacked_rlen, rlen_toNat (hframed.inside.trans s.inle_le), hframed.len_eq]

/-- Settles O47, by the outcomes of a command. -/
theorem rlenCountsBytes : Obligations.RlenCountsBytes := by
  unfold Obligations.RlenCountsBytes
  intro i s t ht
  rcases exec_cases i s with ⟨e, he, hx⟩ | ⟨rfl, -, hx⟩ | ⟨rfl, w, -, hx⟩ | ⟨rfl, v, hv, hx⟩ | ⟨rfl, v, hv, hx⟩ |
    ⟨rfl, v, hv, hx⟩ | ⟨rfl, h, hh, hx⟩ <;> cases hx.symm.trans ht
  · simp [he]
  · simpa using s.tsPacked_rlen_toNat
  · simpa using s.tsUnpacked_rlen_toNat w
  · simpa using State.rdEncoded_rlen_toNat hv
  · simpa using State.rdDecoded_rlen_toNat hv
  · simpa using State.pktPacked_rlen_toNat hv
  · simpa using State.pktUnpacked_rlen_toNat hh

end Sys2Proof.Machine
end

section
/-! The encodings in numbers: command codes (30_encoding.md R81 to R83), the bytes of a timestamp (R88) and host
transaction words (R100). -/

namespace Sys2Proof.Machine

/-! ## Slices and concatenations as numbers -/

theorem toNat_slice {n : Nat} (lo len : Nat) (x : BitVec n) :
    (x.extractLsb' lo len).toNat = x.toNat / 2 ^ lo % 2 ^ len := by
  rw [BitVec.extractLsb'_toNat, Nat.shiftRight_eq_div_pow]

theorem slice_eq_ofNat {n : Nat} (lo len : Nat) (x : BitVec n) :
    x.extractLsb' lo len = BitVec.ofNat len (x.toNat / 2 ^ lo) := by
  rw [BitVec.extractLsb', Nat.shiftRight_eq_div_pow]

theorem slice_eq_zero_iff {n : Nat} (lo len : Nat) (x : BitVec n) :
    x.extractLsb' lo len = 0 ↔ x.toNat / 2 ^ lo % 2 ^ len = 0 := by
  rw [← BitVec.toNat_inj, toNat_slice]
  rfl

/-- In `{a, b}` the high part `a` counts in units of `2 ^ n`, the low part being `n` bits wide (R11). -/
theorem toNat_concat {m n : Nat} (a : BitVec m) (b : BitVec n) : (a ++ b).toNat = a.toNat * 2 ^ n + b.toNat := by
  rw [BitVec.toNat_append, ← Nat.shiftLeft_add_eq_or_of_lt b.isLt, Nat.shiftLeft_eq]

/-! ## Command codes -/

theorem decodeCommand_encodeCommand (i : Instr) : decodeCommand (encodeCommand i) = .ok i := by
  cases i <;> rfl

/-- Each row of R81 compares all eight bits, with its command's code (R82). -/
theorem commandTable_row {row : CommandRow} (h : row ∈ commandTable) :
    row.mask = BitVec.allOnes 8 ∧ row.code = encodeCommand row.instr := by
  have hrows : ∀ row ∈ commandTable, row.mask = BitVec.allOnes 8 ∧ row.code = encodeCommand row.instr := by decide
  exact hrows row h

theorem decodeCommand_eq_ok {op : Byte} {i : Instr} : decodeCommand op = .ok i ↔ op = encodeCommand i := by
  constructor
  · intro h
    unfold decodeCommand at h
    split at h
    · next row hfind =>
      cases h
      obtain ⟨hmask, hcode⟩ := commandTable_row (List.mem_of_find?_eq_some hfind)
      have hmatch : op &&& row.mask = row.code := by simpa using List.find?_some hfind
      rwa [hmask, BitVec.and_allOnes, hcode] at hmatch
    · cases h
  · rintro rfl
    exact decodeCommand_encodeCommand i

/-- The codes of R81 are 1 to 6. -/
theorem exists_encodeCommand_iff {op : Byte} : (∃ i, op = encodeCommand i) ↔ 1 ≤ op.toNat ∧ op.toNat ≤ 6 := by
  constructor
  · rintro ⟨i, rfl⟩
    cases i <;> decide
  · intro h
    have hop : op = 1#8 ∨ op = 2#8 ∨ op = 3#8 ∨ op = 4#8 ∨ op = 5#8 ∨ op = 6#8 := by bv_omega
    rcases hop with h | h | h | h | h | h
    · exact ⟨.tsPack, h⟩
    · exact ⟨.tsUnpack, h⟩
    · exact ⟨.rdEncode, h⟩
    · exact ⟨.rdDecode, h⟩
    · exact ⟨.pktPack, h⟩
    · exact ⟨.pktUnpack, h⟩

/-- The decoder's only error is `illegalCommand` (R83). -/
theorem decodeCommand_ok_or_illegal (op : Byte) :
    (∃ i, decodeCommand op = .ok i) ∨ decodeCommand op = .error (.illegalCommand op) := by
  unfold decodeCommand
  split
  · exact .inl ⟨_, rfl⟩
  · exact .inr rfl

theorem decodeCommand_eq_illegal {op : Byte} :
    decodeCommand op = .error (.illegalCommand op) ↔ op.toNat = 0 ∨ 7 ≤ op.toNat := by
  have hcodes : (∃ i, decodeCommand op = .ok i) ↔ 1 ≤ op.toNat ∧ op.toNat ≤ 6 := by
    simp only [decodeCommand_eq_ok, exists_encodeCommand_iff]
  rcases decodeCommand_ok_or_illegal op with hok | hill
  · have hrange := hcodes.1 hok
    obtain ⟨i, hi⟩ := hok
    simp only [hi, reduceCtorEq, false_iff]
    omega
  · simp only [hill, reduceCtorEq, exists_false, false_iff] at hcodes
    simp only [hill, true_iff]
    omega

/-- Settles O1: a code decodes to a command exactly when it is that command's code in R81. -/
theorem commandDecodingIsFullCompare : Obligations.CommandDecodingIsFullCompare := by
  unfold Obligations.CommandDecodingIsFullCompare
  refine ⟨fun op i => ?_, fun op => decodeCommand_eq_illegal⟩
  rw [decodeCommand_eq_ok]
  cases i <;> simp [encodeCommand]

/-- Settles O10: the code a write to CMD carries is the low byte of its data (R29), and an illegal one raises (R225). -/
theorem illegalCodeRaisesIllegalCommand : Obligations.IllegalCodeRaisesIllegalCommand := by
  unfold Obligations.IllegalCodeRaisesIllegalCommand
  intro s d hcode
  have hlow : (d.extractLsb' 0 8).toNat = d.toNat % 256 := by simp
  rw [← hlow] at hcode
  exact transact_illegal (decodeCommand_eq_illegal.2 hcode)

/-! ## Timestamp bytes -/

theorem toNat_slice_concat {m n : Nat} (lo len lo' len' : Nat) (x : BitVec m) (y : BitVec n) :
    (x.extractLsb' lo len ++ y.extractLsb' lo' len').toNat =
      x.toNat / 2 ^ lo % 2 ^ len * 2 ^ len' + y.toNat / 2 ^ lo' % 2 ^ len' := by
  rw [toNat_concat, toNat_slice, toNat_slice]

/-- Settles O21, byte by byte: a byte is two slices, or the flag bit and a slice, whose numbers add up. -/
theorem timestampBytesLayout : Obligations.TimestampBytesLayout := by
  unfold Obligations.TimestampBytesLayout
  intro ts e
  have hb0 : (ts.hour.extractLsb' 0 2 ++ ts.min.extractLsb' 0 6 : Byte).toNat =
      ts.hour.toNat % 4 * 64 + ts.min.toNat % 64 := by
    simpa using toNat_slice_concat 0 2 0 6 ts.hour ts.min
  have hb1 : (ts.dom.extractLsb' 0 5 ++ ts.hour.extractLsb' 2 3 : Byte).toNat =
      ts.dom.toNat % 32 * 8 + ts.hour.toNat / 4 % 8 := by
    simpa using toNat_slice_concat 0 5 2 3 ts.dom ts.hour
  have hb2 : (ts.year.extractLsb' 0 4 ++ ts.mon.extractLsb' 0 4 : Byte).toNat =
      ts.year.toNat % 16 * 16 + ts.mon.toNat % 16 := by
    simpa using toNat_slice_concat 0 4 0 4 ts.year ts.mon
  have hb3 : (BitVec.ofBool e ++ ts.year.extractLsb' 4 7 : Byte).toNat =
      (if e then 128 else 0) + ts.year.toNat / 16 % 128 := by
    rw [toNat_concat, toNat_slice]
    cases e <;> rfl
  have hb4 : (ts.year.extractLsb' 11 2 ++ ts.sec.extractLsb' 0 6 : Byte).toNat =
      ts.year.toNat / 2048 % 4 * 64 + ts.sec.toNat % 64 := by
    simpa using toNat_slice_concat 11 2 0 6 ts.year ts.sec
  rw [← hb0, ← hb1, ← hb2, ← hb3, ← hb4]
  cases e <;> rfl

/-! ## Host transaction words -/

/-- Bit 31, the write enable WE, in numbers (R100). -/
theorem htw_isWrite_iff (w : Htw) : w.getLsbD 31 = true ↔ 2 ^ 31 ≤ w.toNat := by
  have hmsb := w.msb_eq_decide
  rw [BitVec.msb_eq_getLsbD_last] at hmsb
  rw [hmsb, decide_eq_true_iff]

theorem decodeHtw_of_reserved {w : Htw} (h : w.toNat / 2 ^ 28 % 8 ≠ 0) : decodeHtw w = .error .reservedBits :=
  if_pos (mt (slice_eq_zero_iff 28 3 w).1 h)

theorem decodeHtw_of_write {w : Htw} (hres : w.toNat / 2 ^ 28 % 8 = 0) (hwe : 2 ^ 31 ≤ w.toNat) :
    decodeHtw w = .ok (.write (BitVec.ofNat 12 (w.toNat / 2 ^ 16)) (BitVec.ofNat 16 w.toNat)) := by
  rw [decodeHtw, if_neg (not_not.2 ((slice_eq_zero_iff 28 3 w).2 hres)), if_pos ((htw_isWrite_iff w).2 hwe),
    slice_eq_ofNat, slice_eq_ofNat, pow_zero, Nat.div_one]

/-- A word with WE and the reserved bits clear is a read, refused when it carries data (R100). -/
theorem decodeHtw_of_not_write {w : Htw} (hres : w.toNat / 2 ^ 28 % 8 = 0) (hwe : w.toNat < 2 ^ 31) :
    decodeHtw w = if w.toNat % 2 ^ 16 ≠ 0 then .error .readWithData
      else .ok (.read (BitVec.ofNat 12 (w.toNat / 2 ^ 16))) := by
  have hdata : w.extractLsb' 0 16 ≠ 0 ↔ w.toNat % 2 ^ 16 ≠ 0 := by
    rw [ne_eq, slice_eq_zero_iff, pow_zero, Nat.div_one]
  rw [decodeHtw, if_neg (not_not.2 ((slice_eq_zero_iff 28 3 w).2 hres)),
    if_neg (mt (htw_isWrite_iff w).1 (Nat.not_le.2 hwe)), slice_eq_ofNat 16 12]
  simp only [hdata]

theorem perform_invalid {w : Htw} {e : DecodeError} (h : decodeHtw w = .error e) (s : State) :
    perform (.word w) s = .refused .invalidProgramWord := by
  simp only [perform, h]

/-- Settles O4, by the branches of the decoder: reserved bits, write enable, data of a read. -/
theorem hostWordFieldsAndRefusal : Obligations.HostWordFieldsAndRefusal := by
  unfold Obligations.HostWordFieldsAndRefusal
  refine fun w => ⟨fun hbad s => ?_, decodeHtw_of_write, fun hres hwe hdata => ?_⟩
  · by_cases hres : w.toNat / 2 ^ 28 % 8 = 0
    · obtain ⟨hwe, hdata⟩ := hbad.resolve_left (not_not.2 hres)
      exact perform_invalid ((decodeHtw_of_not_write hres hwe).trans (if_pos hdata)) s
    · exact perform_invalid (decodeHtw_of_reserved hres) s
  · exact (decodeHtw_of_not_write hres hwe).trans (if_neg (not_not.2 hdata))

end Sys2Proof.Machine
end

section
/-! The Timestamp Codec: when a field is too wide (40_timestamp.md R123), and the meanings of TS_PACK (R122) and
TS_UNPACK (R124, with the field extraction of 30_encoding.md R89 in numbers). -/

namespace Sys2Proof.Machine

/-! ## Dropped bits -/

/-- The bits from `lo` up to the top of a word are all 0 exactly when its number fits in `lo` bits. -/
theorem topSlice_eq_zero_iff (lo len : Nat) (x : BitVec (lo + len)) :
    x.extractLsb' lo len = 0 ↔ x.toNat < 2 ^ lo := by
  have hdiv : x.toNat / 2 ^ lo < 2 ^ len := Nat.div_lt_of_lt_mul (Nat.pow_add 2 lo len ▸ x.isLt)
  rw [slice_eq_zero_iff, Nat.mod_eq_of_lt hdiv, Nat.div_eq_zero_iff_lt (by positivity)]

/-- Settles O22: each bit that TsOvf looks at belongs to the top slice of a field, which is 0 exactly when the field
fits below it. -/
theorem fieldOverflowIsDroppedBits : Obligations.FieldOverflowIsDroppedBits := by
  unfold Obligations.FieldOverflowIsDroppedBits
  intro ts e
  have hmin : ts.min.extractLsb' 6 2 = 0 ↔ ts.min.toNat < 64 := topSlice_eq_zero_iff 6 2 ts.min
  have hhour : ts.hour.extractLsb' 5 3 = 0 ↔ ts.hour.toNat < 32 := topSlice_eq_zero_iff 5 3 ts.hour
  have hdom : ts.dom.extractLsb' 5 3 = 0 ↔ ts.dom.toNat < 32 := topSlice_eq_zero_iff 5 3 ts.dom
  have hmon : ts.mon.extractLsb' 4 4 = 0 ↔ ts.mon.toNat < 16 := topSlice_eq_zero_iff 4 4 ts.mon
  have hyearCompact : ts.year.extractLsb' 11 5 = 0 ↔ ts.year.toNat < 2048 := topSlice_eq_zero_iff 11 5 ts.year
  have hyearExt : ts.year.extractLsb' 13 3 = 0 ↔ ts.year.toNat < 8192 := topSlice_eq_zero_iff 13 3 ts.year
  have hsec : ts.sec.extractLsb' 6 2 = 0 ↔ ts.sec.toNat < 64 := topSlice_eq_zero_iff 6 2 ts.sec
  rw [← hmin, ← hhour, ← hdom, ← hmon, ← hyearCompact, ← hyearExt, ← hsec]
  cases e <;> simp [tsOvf, and_assoc]

/-! ## TS_PACK -/

/-- RLEN's value after a timestamp command, by the form (R87). -/
theorem rlen_tsWidth (e : Bool) : BitVec.ofNat 9 (tsWidth e) = if e then 5 else 4 := by cases e <;> rfl

/-- TS_PACK writes BUF, RLEN, ERR and FOVF and nothing else (R122). -/
theorem State.tsPacked_frame (s : State) :
    s.tsPacked = { s with buf := s.tsPacked.buf, rlen := if s.ext then 5 else 4, err := .ok,
                          fovf := tsOvf s.ts s.ext } := by
  rw [← rlen_tsWidth]
  rfl

/-- Where the timestamp fits in BUF, its bytes stand at ADDR after TS_PACK. -/
theorem State.tsPacked_memRead {s : State} (hin : s.addr.toNat + tsWidth s.ext ≤ Config.bufSize) :
    s.tsPacked.memRead s.addr.toNat (tsWidth s.ext) = tsBytes s.ts s.ext := by
  rw [← tsBytes_length s.ts] at hin ⊢
  exact (State.memRead_congr _ _ _ _ fun _ _ => State.succeed_byteAt _ _ _ _).trans (s.memRead_memWrite _ _ hin)

/-- Where the timestamp fits in BUF, TS_PACK leaves every byte beside it. -/
theorem State.tsPacked_byteAt_outside {s : State} (hin : s.addr.toNat + tsWidth s.ext ≤ Config.bufSize) {b : Nat}
    (hb : b < s.addr.toNat ∨ s.addr.toNat + tsWidth s.ext ≤ b) : s.tsPacked.byteAt b = s.byteAt b := by
  rw [← tsBytes_length s.ts] at hin hb
  exact (State.succeed_byteAt _ _ _ _).trans (s.memWrite_byteAt_outside _ _ _ hin hb)

/-- Settles O26, by the capacity check: the state of a success that fits in BUF, or the error's state. -/
theorem tsPackMeaning : Obligations.TsPackMeaning := by
  unfold Obligations.TsPackMeaning
  intro s
  rw [← s.cape_eq, ← tsWidth_eq]
  refine ⟨fun hfits => ?_, fun hover => execTsPack_overflow hover⟩
  have hin : s.addr.toNat + tsWidth s.ext ≤ Config.bufSize := hfits.trans s.cape_le
  exact ⟨s.tsPacked, execTsPack_fits hfits, s.tsPacked_frame, State.tsPacked_memRead hin,
    fun _ hb => State.tsPacked_byteAt_outside hin hb⟩

/-! ## TsUnpack in numbers -/

/-- Bit 7 of a byte, the extension flag of byte 3 (R89), in numbers. -/
theorem getLsbD_seven (b : Byte) : b.getLsbD 7 = decide (128 ≤ b.toNat) := by
  rw [← b.msb_eq_decide, BitVec.msb_eq_getLsbD_last]

/-- The width that byte 3 asks for (R87, R89). -/
theorem tsWidth_getLsbD_seven (b : Byte) :
    (128 ≤ b.toNat ∧ tsWidth (b.getLsbD 7) = 5) ∨ (b.toNat < 128 ∧ tsWidth (b.getLsbD 7) = 4) := by
  rw [getLsbD_seven]
  rcases Nat.lt_or_ge b.toNat 128 with h | h
  · exact .inr ⟨h, by rw [decide_eq_false (Nat.not_le.2 h), tsWidth_false]⟩
  · exact .inl ⟨h, by rw [decide_eq_true h, tsWidth_true]⟩

section Extract

variable (b0 b1 b2 b3 b4 : Byte)

theorem tsExtract_ext : (tsExtract b0 b1 b2 b3 b4).ext = decide (128 ≤ b3.toNat) := getLsbD_seven b3

theorem tsExtract_min : (tsExtract b0 b1 b2 b3 b4).ts.min.toNat = b0.toNat % 64 := by
  simp only [tsExtract, BitVec.toNat_setWidth, toNat_slice]
  omega

theorem tsExtract_hour : (tsExtract b0 b1 b2 b3 b4).ts.hour.toNat = b0.toNat / 64 + b1.toNat % 8 * 4 := by
  simp only [tsExtract, BitVec.toNat_setWidth, toNat_slice_concat]
  omega

theorem tsExtract_dom : (tsExtract b0 b1 b2 b3 b4).ts.dom.toNat = b1.toNat / 8 := by
  simp only [tsExtract, BitVec.toNat_setWidth, toNat_slice]
  omega

theorem tsExtract_mon : (tsExtract b0 b1 b2 b3 b4).ts.mon.toNat = b2.toNat % 16 := by
  simp only [tsExtract, BitVec.toNat_setWidth, toNat_slice]
  omega

theorem tsExtract_sec :
    (tsExtract b0 b1 b2 b3 b4).ts.sec.toNat = if 128 ≤ b3.toNat then b4.toNat % 64 else 0 := by
  simp only [tsExtract, getLsbD_seven, decide_eq_true_eq]
  split
  · simp only [BitVec.toNat_setWidth, toNat_slice]
    omega
  · rfl

theorem tsExtract_year :
    (tsExtract b0 b1 b2 b3 b4).ts.year.toNat =
      b2.toNat / 16 + b3.toNat % 128 * 16 + if 128 ≤ b3.toNat then b4.toNat / 64 * 2048 else 0 := by
  simp only [tsExtract, getLsbD_seven, decide_eq_true_eq]
  split
  · simp only [BitVec.toNat_setWidth, toNat_concat, toNat_slice]
    omega
  · simp only [BitVec.toNat_setWidth, toNat_slice_concat]
    omega

/-- The compact form does not reach byte 4. -/
theorem tsExtract_compact (h : b3.getLsbD 7 = false) (b : Byte) :
    tsExtract b0 b1 b2 b3 b4 = tsExtract b0 b1 b2 b3 b := by
  simp only [tsExtract, h, Bool.false_eq_true, if_false]

end Extract

/-- TsUnpack of the bytes at `a`, as many as byte 3 asks for, extracts from the five bytes there. -/
theorem State.tsUnpack_memRead (s : State) (a : Nat) :
    tsUnpack (s.memRead a (tsWidth ((s.byteAt (a + 3)).getLsbD 7))) =
      tsExtract (s.byteAt a) (s.byteAt (a + 1)) (s.byteAt (a + 2)) (s.byteAt (a + 3)) (s.byteAt (a + 4)) := by
  have hw := (tsWidth_bounds ((s.byteAt (a + 3)).getLsbD 7)).1
  rw [tsUnpack, s.memRead_getD _ _ 0 (by omega), s.memRead_getD _ _ 1 (by omega), s.memRead_getD _ _ 2 (by omega),
    s.memRead_getD _ _ 3 (by omega), Nat.add_zero]
  cases he : (s.byteAt (a + 3)).getLsbD 7 with
  | false => exact tsExtract_compact _ _ _ _ _ he _
  | true => rw [s.memRead_getD _ _ 4 (by decide)]

/-! ## TS_UNPACK -/

/-- TS_UNPACK writes OTS, OEXT, RLEN, ERR and FOVF and nothing else, RLEN by the form in OEXT (R124). -/
theorem State.tsUnpacked_frame (s : State) (w : Nat) :
    s.tsUnpacked w = { s with ots := (s.tsUnpacked w).ots, oext := (s.tsUnpacked w).oext,
                              rlen := if (s.tsUnpacked w).oext then 5 else 4, err := .ok, fovf := false } := by
  rw [← rlen_tsWidth]
  rfl

/-- TS_UNPACK fails when fewer bytes are declared at ADDR than the form in byte 3 takes (R124). -/
theorem execTsUnpack_truncated {s : State}
    (h : s.inle < s.addr.toNat + tsWidth ((s.byteAt (s.addr.toNat + 3)).getLsbD 7)) :
    execTsUnpack s = .next (s.raise .truncatedInput) := by
  cases hc : tsUnpackCheck s with
  | error e =>
    obtain ⟨rfl, -⟩ := tsUnpackCheck_error hc
    exact execTsUnpack_error hc
  | ok w =>
    obtain ⟨rfl, hfits⟩ := tsUnpackCheck_ok.1 hc
    omega

/-- Settles O27, by the width that bit 7 of byte 3 asks for, against the declared input. -/
theorem tsUnpackMeaning : Obligations.TsUnpackMeaning := by
  unfold Obligations.TsUnpackMeaning
  intro s b hb
  simp only [← s.inle_eq, hb]
  have hwidth := tsWidth_getLsbD_seven (s.byteAt (s.addr.toNat + 3))
  refine ⟨fun hshort => ?_, fun _ hext hshort => ?_, fun hfour hfive => ?_⟩
  · exact execTsUnpack_truncated (by omega)
  · exact execTsUnpack_truncated (by omega)
  · have hfits : s.addr.toNat + tsWidth ((s.byteAt (s.addr.toNat + 3)).getLsbD 7) ≤ s.inle := by omega
    refine ⟨_, execTsUnpack_ok (tsUnpackCheck_ok.2 ⟨rfl, hfits⟩), ?_, ?_⟩
    · have hframe := s.tsUnpacked_frame (tsWidth ((s.byteAt (s.addr.toNat + 3)).getLsbD 7))
      simpa only [State.tsUnpacked_oext, s.tsUnpack_memRead, tsExtract_ext, decide_eq_true_eq] using hframe
    · rw [State.tsUnpacked_ots, s.tsUnpack_memRead]
      exact ⟨tsExtract_min .., tsExtract_hour .., rfl, tsExtract_dom .., tsExtract_mon .., tsExtract_sec ..,
        tsExtract_year ..⟩

end Sys2Proof.Machine
end

section
/-! The Reading Codec: records in both directions (41_reading.md R151 to R157), the dispatch by tag (R158), and the
meanings of RD_ENCODE (R160) and RD_DECODE (R162). -/

namespace Sys2Proof.Machine

/-! ## Fields of a reading -/

theorem Reading.get_set (r : Reading) (f g : Field) (x : Half) :
    (r.set f x).get g = if g = f then x else r.get g := by cases f <;> cases g <;> rfl

@[simp] theorem Reading.get_set_same (r : Reading) (f : Field) (x : Half) : (r.set f x).get f = x := by
  rw [Reading.get_set, if_pos rfl]

theorem Reading.get_set_ne (r : Reading) {f g : Field} (h : g ≠ f) (x : Half) : (r.set f x).get g = r.get g := by
  rw [Reading.get_set, if_neg h]

@[simp] theorem Reading.get_zero (f : Field) : Reading.zero.get f = 0 := by cases f <;> rfl

/-- No view carries a field twice (R150). -/
theorem View.fields_nodup (v : View) : v.fields.Nodup := by cases v <;> decide

section SetAll

variable {α : Type} (field : α → Field) (value : α → Half)

/-- Setting a list of fields leaves every other field. -/
theorem Reading.get_foldl_set_of_forall_ne {xs : List α} {f : Field} (h : ∀ x ∈ xs, f ≠ field x) (r : Reading) :
    (xs.foldl (fun out x => out.set (field x) (value x)) r).get f = r.get f := by
  induction xs generalizing r with
  | nil => rfl
  | cons x xs ih =>
    obtain ⟨hx, hxs⟩ := List.forall_mem_cons.1 h
    rw [List.foldl_cons, ih hxs, r.get_set_ne hx]

/-- Setting a list of distinct fields gives each of them its value: no later entry sets it again. -/
theorem Reading.get_foldl_set_of_mem {xs : List α} (hnodup : (xs.map field).Nodup) {x : α} (hx : x ∈ xs)
    (r : Reading) : (xs.foldl (fun out x => out.set (field x) (value x)) r).get (field x) = value x := by
  induction xs generalizing r with
  | nil => cases hx
  | cons y ys ih =>
    obtain ⟨hy, hys⟩ := List.nodup_cons.1 hnodup
    rw [List.foldl_cons]
    rcases List.mem_cons.1 hx with rfl | hx
    · have hlater : ∀ z ∈ ys, field x ≠ field z := fun z hz heq => hy (heq ▸ List.mem_map_of_mem hz)
      rw [Reading.get_foldl_set_of_forall_ne field value hlater, Reading.get_set_same]
    · exact ih hys hx _

end SetAll

/-! ## Records -/

/-- The field whose two bytes stand at offset `k` of a record, low byte first (R61, R155). -/
def fieldAt (bytes : List Byte) (k : Nat) : Half := fieldOfBytes (bytes.getD k 0) (bytes.getD (k + 1) 0)

/-- A field's bytes in numbers (R61). -/
theorem fieldBytes_toNat (x : Half) : (fieldBytes x).map BitVec.toNat = [x.toNat % 256, x.toNat / 256] := by
  have hlow : (x.extractLsb' 0 8).toNat = x.toNat % 256 := by rw [toNat_slice]; omega
  have hhigh : (x.extractLsb' 8 8).toNat = x.toNat / 256 := by rw [toNat_slice]; omega
  rw [fieldBytes, List.map_cons, List.map_cons, List.map_nil, hlow, hhigh]

theorem fieldOfBytes_toNat (lo hi : Byte) : (fieldOfBytes lo hi).toNat = lo.toNat + hi.toNat * 256 := by
  rw [fieldOfBytes, toNat_concat]
  omega

/-- The bytes of a record in numbers (R151). -/
theorem rdEncode_toNat (v : View) (r : Reading) :
    (rdEncode v r).map BitVec.toNat =
      v.fields.flatMap fun f => [(r.get f).toNat % 256, (r.get f).toNat / 256] := by
  simp only [rdEncode, List.map_flatMap, fieldBytes_toNat]

/-- The full view carries the wind fields and then the others (R150), and so do its records. -/
theorem rdEncode_full (r : Reading) : rdEncode .full r = rdEncode .wind r ++ rdEncode .env r :=
  List.flatMap_append (xs := View.wind.fields) (ys := View.env.fields)

/-- The `k`-th field of a view is decoded from offset `2 * k` of the record (R155). -/
theorem rdDecode_get_fields (v : View) (bytes : List Byte) {k : Nat} (hk : k < v.fields.length) :
    (rdDecode v bytes).get v.fields[k] = fieldAt bytes (2 * k) := by
  have hnodup : (v.fields.zipIdx.map Prod.fst).Nodup := by
    rw [List.zipIdx_map_fst]
    exact v.fields_nodup
  have hmem : (v.fields[k], k) ∈ v.fields.zipIdx := List.mem_zipIdx_iff_getElem?.2 (List.getElem?_eq_getElem hk)
  exact Reading.get_foldl_set_of_mem Prod.fst (fun fk : Field × Nat => fieldAt bytes (2 * fk.2)) hnodup hmem _

/-- A field that the view does not carry is decoded as 0 (R156). -/
theorem rdDecode_get_of_notMem {v : View} {f : Field} (h : f ∉ v.fields) (bytes : List Byte) :
    (rdDecode v bytes).get f = 0 := by
  have hother : ∀ fk ∈ v.fields.zipIdx, f ≠ fk.1 := fun fk hfk heq => h (heq ▸ List.fst_mem_of_mem_zipIdx hfk)
  exact (Reading.get_foldl_set_of_forall_ne Prod.fst (fun fk : Field × Nat => fieldAt bytes (2 * fk.2)) hother _).trans
    (Reading.get_zero f)

theorem rdDecode_wind (bytes : List Byte) :
    rdDecode .wind bytes = ⟨fieldAt bytes 0, fieldAt bytes 2, fieldAt bytes 4, fieldAt bytes 6, 0, 0, 0, 0⟩ := rfl

theorem rdDecode_env (bytes : List Byte) :
    rdDecode .env bytes = ⟨0, 0, 0, 0, fieldAt bytes 0, fieldAt bytes 2, fieldAt bytes 4, fieldAt bytes 6⟩ := rfl

theorem rdDecode_full (bytes : List Byte) :
    rdDecode .full bytes = ⟨fieldAt bytes 0, fieldAt bytes 2, fieldAt bytes 4, fieldAt bytes 6,
      fieldAt bytes 8, fieldAt bytes 10, fieldAt bytes 12, fieldAt bytes 14⟩ := rfl

/-! ## RD_ENCODE -/

@[simp] theorem State.succeed_memRead (s : State) (n : Nat) (o : Bool) (a len : Nat) :
    (s.succeed n o).memRead a len = s.memRead a len := rfl

theorem execRdEncode_unsupported {s : State} (h : viewOf s.tag = none) :
    execRdEncode s = .next (s.raise .unsupportedType) :=
  execRdEncode_error (by rw [rdEncodeCheck, h])

theorem execRdEncode_overflow {s : State} {v : View} (hview : viewOf s.tag = some v)
    (hover : s.cape < s.addr.toNat + v.rw) : execRdEncode s = .next (s.raise .bufferOverflow) :=
  execRdEncode_error (by rw [rdEncodeCheck, hview]; exact if_pos hover)

/-- Where the record fits in BUF, it stands at ADDR after RD_ENCODE. -/
theorem State.rdEncoded_memRead {s : State} {v : View} (hin : s.addr.toNat + v.rw ≤ Config.bufSize) :
    (s.rdEncoded v).memRead s.addr.toNat v.rw = rdEncode v s.rdin[0] := by
  rw [← rdEncode_length v s.rdin[0]] at hin ⊢
  rw [State.rdEncoded, State.succeed_memRead, s.memRead_memWrite _ _ hin]

/-- Where the record fits in BUF, RD_ENCODE leaves every byte beside it. -/
theorem State.rdEncoded_byteAt_outside {s : State} {v : View} (hin : s.addr.toNat + v.rw ≤ Config.bufSize) {b : Nat}
    (hb : b < s.addr.toNat ∨ s.addr.toNat + v.rw ≤ b) : (s.rdEncoded v).byteAt b = s.byteAt b := by
  rw [← rdEncode_length v s.rdin[0]] at hin hb
  rw [State.rdEncoded, State.succeed_byteAt, s.memWrite_byteAt_outside _ _ _ hin hb]

/-- Settles O34, by the checks in order: the tag's view, then the capacity. -/
theorem rdEncodeMeaning : Obligations.RdEncodeMeaning := by
  unfold Obligations.RdEncodeMeaning
  intro s
  rw [← s.cape_eq]
  refine ⟨execRdEncode_unsupported, fun v hview => ⟨execRdEncode_overflow hview, fun hfits => ?_⟩⟩
  have hin : s.addr.toNat + v.rw ≤ Config.bufSize := hfits.trans s.cape_le
  exact ⟨s.rdEncoded v, execRdEncode_ok (rdEncodeCheck_ok.2 ⟨hview, hfits⟩), rfl, State.rdEncoded_memRead hin,
    fun _ hb => State.rdEncoded_byteAt_outside hin hb⟩

/-! ## RD_DECODE -/

theorem execRdDecode_unsupported {s : State} (h : viewOf s.tag = none) :
    execRdDecode s = .next (s.raise .unsupportedType) :=
  execRdDecode_error (by rw [rdDecodeCheck, h])

theorem execRdDecode_truncated {s : State} {v : View} (hview : viewOf s.tag = some v)
    (hshort : s.inle < s.addr.toNat + v.rw) : execRdDecode s = .next (s.raise .truncatedInput) :=
  execRdDecode_error (by rw [rdDecodeCheck, hview]; exact if_pos hshort)

/-- A field of a record read from BUF, in numbers. -/
theorem State.fieldAt_memRead_toNat (s : State) (a : Nat) {n k : Nat} (h : k + 1 < n) :
    (fieldAt (s.memRead a n) k).toNat = (s.byteAt (a + k)).toNat + (s.byteAt (a + k + 1)).toNat * 256 := by
  rw [fieldAt, s.memRead_getD _ _ _ (by omega), s.memRead_getD _ _ _ h, fieldOfBytes_toNat, Nat.add_assoc]

/-- RD_DECODE puts the record's reading in `RDOUT[0]` (R162). -/
theorem State.rdDecoded_rdout_zero (s : State) (v : View) :
    (s.rdDecoded v).rdout[0] = rdDecode v (s.memRead s.addr.toNat v.rw) := by
  rw [rdDecoded_rdout, Vector.getElem_set_self]

/-- RD_DECODE leaves every other entry of RDOUT (R162). -/
theorem State.rdDecoded_rdout_ne (s : State) (v : View) {i : Fin 32} (h : i ≠ 0) :
    (s.rdDecoded v).rdout[i] = s.rdout[i] := by
  have hne : 0 ≠ i.val := fun h0 => h (Fin.ext h0.symm)
  rw [rdDecoded_rdout, Fin.getElem_fin, Vector.getElem_set_ne _ _ hne]
  rfl

/-- Settles O35, by the checks in order: the tag's view, then the declared input. -/
theorem rdDecodeMeaning : Obligations.RdDecodeMeaning := by
  unfold Obligations.RdDecodeMeaning
  intro s
  rw [← s.inle_eq]
  refine ⟨execRdDecode_unsupported, fun v hview => ⟨execRdDecode_truncated hview, fun hfits => ?_⟩⟩
  refine ⟨s.rdDecoded v, execRdDecode_ok (rdDecodeCheck_ok.2 ⟨hview, hfits⟩), rfl, fun k hk => ?_, fun f hf => ?_,
    fun i hi => s.rdDecoded_rdout_ne v hi⟩
  · have hin : 2 * k + 1 < v.rw := by rw [v.rw_eq]; omega
    rw [s.rdDecoded_rdout_zero, rdDecode_get_fields v _ hk, s.fieldAt_memRead_toNat _ hin]
  · rw [s.rdDecoded_rdout_zero, rdDecode_get_of_notMem hf]

/-! ## Dispatch, packers and unpackers -/

/-- Settles O28: the three rows of R90, and the two dispatches as the model defines them on the tag's view. -/
theorem tagSelectsView : Obligations.TagSelectsView := by
  unfold Obligations.TagSelectsView
  refine ⟨fun tag => ?_, fun tag => ?_, fun tag => ?_, View.rw_eq, rfl, rfl, rfl, fun _ _ => rfl, fun _ _ => rfl⟩ <;>
    simp [viewOf_eq_some]

/-- Settles O29: the bytes of a record in numbers, on the fields of each view. -/
theorem packersWriteFieldsLowByteFirst : Obligations.PackersWriteFieldsLowByteFirst := by
  unfold Obligations.PackersWriteFieldsLowByteFirst
  exact fun r => ⟨rdEncode_toNat .wind r, rdEncode_toNat .env r, rdEncode_full r, rdEncode_length .full r,
    rdEncode_length .wind r, rdEncode_length .env r⟩

/-- Settles O30: the reading of each view, field by field, beside the view's width. -/
theorem unpackersReadTheirOffsets : Obligations.UnpackersReadTheirOffsets := by
  unfold Obligations.UnpackersReadTheirOffsets
  intro s w hw
  obtain rfl : w = fieldAt s := funext hw
  exact ⟨fun _ => Prod.ext (rdDecode_wind s) rfl, fun _ => Prod.ext (rdDecode_env s) rfl,
    fun _ => Prod.ext (rdDecode_full s) rfl⟩

end Sys2Proof.Machine
end

section
/-! The Packet Framer's commands: the meanings of PKT_PACK (42_packet.md R183) and PKT_UNPACK (R190 to R192), and the
bytes of BUF that a successful PKT_UNPACK depends on (R193). -/

namespace Sys2Proof.Machine

/-! ## PKT_PACK -/

theorem pktTotal_eq (v : View) (e : Bool) (n : Nat) :
    pktTotal v e n = 2 + (if e then 5 else 4) + n * v.rw := by rw [pktTotal, tsWidth_eq]

theorem execPktPack_unsupported {s : State} (h : viewOf s.tag = none) :
    execPktPack s = .next (s.raise .unsupportedType) :=
  execPktPack_error (by rw [pktPackCheck, h])

theorem execPktPack_overflow {s : State} {v : View} (hview : viewOf s.tag = some v)
    (hover : s.cape < pktTotal v s.ext s.nrd.toNat) : execPktPack s = .next (s.raise .bufferOverflow) :=
  execPktPack_error (by rw [pktPackCheck, hview]; exact if_pos hover)

/-- A packet that fits in BUF has at most 31 readings (R185). -/
theorem count_le_of_pktTotal_le {v : View} {e : Bool} {n : Nat} (h : pktTotal v e n ≤ Config.bufSize) : n ≤ 31 := by
  have hts := (tsWidth_bounds e).1
  have hin : 2 + tsWidth e + n * v.rw ≤ 256 := h
  rcases v.rw_cases with ⟨hrw, -⟩ | ⟨hrw, -⟩ <;> rw [hrw] at hin <;> omega

/-- The packet of the first NRD readings has PKT_PACK's total where that fits in BUF, since RDIN then holds them all. -/
theorem State.packet_length {s : State} {v : View} (hin : pktTotal v s.ext s.nrd.toNat ≤ Config.bufSize) :
    (pktBytes s.tag v s.ts s.ext (s.readings s.nrd.toNat)).length = pktTotal v s.ext s.nrd.toNat := by
  have hcount : s.nrd.toNat ≤ Config.rdDepth := (count_le_of_pktTotal_le hin).trans (by decide)
  have hlen : (s.readings s.nrd.toNat).length = s.nrd.toNat := by
    rw [State.readings, List.length_take, Vector.length_toList, Nat.min_eq_left hcount]
  rw [pktBytes_length, hlen]

/-- Where the packet fits in BUF, it stands at offset 0 after PKT_PACK. -/
theorem State.pktPacked_memRead {s : State} {v : View} (hin : pktTotal v s.ext s.nrd.toNat ≤ Config.bufSize) :
    (s.pktPacked v).memRead 0 (pktTotal v s.ext s.nrd.toNat) =
      pktBytes s.tag v s.ts s.ext (s.readings s.nrd.toNat) := by
  have hlen := State.packet_length hin
  rw [State.pktPacked, State.succeed_memRead, ← hlen, s.memRead_memWrite _ _ (by omega)]

/-- Where the packet fits in BUF, PKT_PACK leaves every byte after it. -/
theorem State.pktPacked_byteAt_past {s : State} {v : View} (hin : pktTotal v s.ext s.nrd.toNat ≤ Config.bufSize)
    {b : Nat} (hb : pktTotal v s.ext s.nrd.toNat ≤ b) : (s.pktPacked v).byteAt b = s.byteAt b := by
  have hlen := State.packet_length hin
  rw [State.pktPacked, State.succeed_byteAt, s.memWrite_byteAt_outside _ _ _ (by omega) (by omega)]

/-- Settles O38, by the checks in order: the tag's view, then the capacity. -/
theorem pktPackMeaning : Obligations.PktPackMeaning := by
  unfold Obligations.PktPackMeaning
  intro s
  rw [← s.cape_eq]
  refine ⟨execPktPack_unsupported, fun v total hview htotal => ?_⟩
  obtain rfl : total = pktTotal v s.ext s.nrd.toNat := htotal.trans (pktTotal_eq ..).symm
  refine ⟨execPktPack_overflow hview, fun hfits => ?_⟩
  have hin : pktTotal v s.ext s.nrd.toNat ≤ Config.bufSize := hfits.trans s.cape_le
  exact ⟨s.pktPacked v, execPktPack_ok (pktPackCheck_ok.2 ⟨hview, hfits⟩), rfl, State.pktPacked_memRead hin,
    fun _ hb => State.pktPacked_byteAt_past hin hb⟩

/-! ## PKT_UNPACK -/

theorem execPktUnpack_unsupported {s : State} (htwo : 2 ≤ s.inle) (hview : viewOf (s.byteAt 0) = none) :
    execPktUnpack s = .next (s.raise .unsupportedType) :=
  execPktUnpack_error (by rw [pktUnpackCheck, if_neg (by omega), hview])

/-- Bad framing is TRUNCATED_INPUT unless the tag byte is there and has no view (R190). -/
theorem execPktUnpack_truncated {s : State} (htag : s.inle < 2 ∨ viewOf (s.byteAt 0) ≠ none)
    (hbad : ∀ h, ¬ PktFramed s h) : execPktUnpack s = .next (s.raise .truncatedInput) := by
  cases hc : pktUnpackCheck s with
  | ok h => exact absurd (pktUnpackCheck_ok.1 hc) (hbad h)
  | error e =>
    rcases pktUnpackCheck_error hc with ⟨-, htwo, hview⟩ | ⟨rfl, -⟩
    · exact absurd hview (htag.resolve_left (by omega))
    · exact execPktUnpack_error hc

/-- The flag that PKT_UNPACK reports is bit 7 of byte 5, by which the timestamp's width was chosen (R190). -/
theorem PktFramed.tsUnpack_ext {s : State} {h : PktHeader} (hf : PktFramed s h) :
    (tsUnpack (s.memRead 2 (tsWidth h.ext))).ext = h.ext := by
  rw [hf.ext_eq, s.tsUnpack_memRead 2]
  rfl

/-- TsUnpack gives day-of-week 0, so writing OTS_DOW as 0 keeps the timestamp it gives (R89, R125). -/
theorem tsUnpack_ts_dow (bytes : List Byte) : { (tsUnpack bytes).ts with dow := 0 } = (tsUnpack bytes).ts := rfl

/-- What PKT_UNPACK writes, and that it writes nothing else (R190). -/
theorem PktFramed.pktUnpacked_frame {s : State} {h : PktHeader} (hf : PktFramed s h) :
    s.pktUnpacked h =
      { s with rdout := (s.pktUnpacked h).rdout, otag := s.byteAt 0, oext := h.ext, onrd := BitVec.ofNat 8 h.count,
               ots := (tsUnpack (s.memRead 2 (tsWidth h.ext))).ts, rlen := BitVec.ofNat 9 (h.len + 1),
               err := .ok, fovf := false } := by
  apply State.ext_fields
  case oext => rw [State.pktUnpacked_oext, hf.tsUnpack_ext]
  case ots => rw [State.pktUnpacked_ots, tsUnpack_ts_dow]
  all_goals simp

/-- An entry of RDOUT after PKT_UNPACK: a record of the packet, or all zeros past the last one (R190, R192). -/
theorem State.pktUnpacked_rdout_get (s : State) (h : PktHeader) (i : Fin 32) :
    (s.pktUnpacked h).rdout[i] = if i.val < h.count then s.record h i.val else Reading.zero := by
  rw [pktUnpacked_rdout, State.records, Fin.getElem_fin, Vector.getElem_ofFn]

/-- Settles O40, by the checks in order: two bytes, the tag's view, the rest of the framing. -/
theorem pktUnpackMeaning : Obligations.PktUnpackMeaning := by
  unfold Obligations.PktUnpackMeaning
  intro s inle len tsw hinle hlen htsw
  obtain rfl : inle = s.inle := hinle
  rw [← tsWidth_eq] at htsw
  subst hlen htsw
  refine ⟨fun hshort => ?_, execPktUnpack_unsupported, fun v htwo hview => ⟨fun hbad => ?_, ?_⟩⟩
  · exact execPktUnpack_truncated (.inl hshort) fun h hf => absurd hf.two (Nat.not_le.2 hshort)
  · refine execPktUnpack_truncated (.inr (by simp [hview])) fun h hf => ?_
    obtain ⟨-, hv, hl, he, hfive, hinside, hstamp, hexact, -⟩ := hf
    obtain rfl : h.view = v := Option.some.inj (hv.symm.trans hview)
    rw [← hl, ← he] at hbad
    omega
  · intro hfive hinside hstamp hexact
    have hf : PktFramed s ⟨v, (s.byteAt 1).toNat, (s.byteAt 5).getLsbD 7,
        ((s.byteAt 1).toNat - 1 - tsWidth ((s.byteAt 5).getLsbD 7)) / v.rw⟩ :=
      ⟨htwo, hview, rfl, rfl, hfive, hinside, hstamp, hexact, rfl⟩
    exact ⟨_, execPktUnpack_ok (pktUnpackCheck_ok.2 hf), hf.pktUnpacked_frame, s.pktUnpacked_rdout_get _⟩

/-! ## The bytes a packet is read from -/

theorem exec_pktUnpack_eq_ok {s t : State} (hx : exec .pktUnpack s = .next t) (hok : t.err = .ok) :
    ∃ h, pktUnpackCheck s = .ok h ∧ t = s.pktUnpacked h := by
  cases hc : pktUnpackCheck s with
  | ok h => exact ⟨h, rfl, Host.Outcome.next.inj (hx.symm.trans (execPktUnpack_ok hc))⟩
  | error e =>
    cases hx.symm.trans (execPktUnpack_error hc)
    rcases pktUnpackCheck_error hc with ⟨rfl, -⟩ | ⟨rfl, -⟩ <;> cases hok

/-- Every record ends inside the packet, whose last byte is at the length byte's offset `L` (R190). -/
theorem PktFramed.record_end_le {s : State} {h : PktHeader} (hf : PktFramed s h) {i : Nat} (hi : i < h.count) :
    2 + tsWidth h.ext + i * h.view.rw + h.view.rw ≤ h.len + 1 := by
  have hall : h.count * h.view.rw = h.len - 1 - tsWidth h.ext := by
    rw [hf.count_eq, Nat.div_mul_cancel (Nat.dvd_of_mod_eq_zero hf.exact)]
  have hnext : (i + 1) * h.view.rw ≤ h.count * h.view.rw := Nat.mul_le_mul_right _ hi
  have hstamp := hf.stamp
  rw [Nat.succ_mul] at hnext
  omega

section OtherBuffer

variable {s : State} {h : PktHeader} {m : Memory}

/-- The framing is the same in a buffer that agrees on the packet. -/
theorem PktFramed.of_bytes_eq (hf : PktFramed s h)
    (hm : ∀ a, a ≤ h.len → State.byteAt { s with buf := m } a = s.byteAt a) : PktFramed { s with buf := m } h :=
  { hf with
    view := by rw [hm 0 (Nat.zero_le _), hf.view]
    len_eq := by rw [hm 1 (by have := hf.five; omega), hf.len_eq]
    ext_eq := by rw [hm 5 hf.five, hf.ext_eq] }

/-- A read inside the packet is the same in a buffer that agrees on it. -/
theorem memRead_eq_of_bytes_eq (hm : ∀ a, a ≤ h.len → State.byteAt { s with buf := m } a = s.byteAt a) {a n : Nat}
    (hend : a + n ≤ h.len + 1) : State.memRead { s with buf := m } a n = s.memRead a n :=
  State.memRead_congr _ _ _ _ fun k hk => hm (a + k) (by omega)

/-- The decoded readings are the same in a buffer that agrees on the packet. -/
theorem PktFramed.records_eq_of_bytes_eq (hf : PktFramed s h)
    (hm : ∀ a, a ≤ h.len → State.byteAt { s with buf := m } a = s.byteAt a) :
    State.records { s with buf := m } h = s.records h := by
  refine Vector.ext fun i hi => ?_
  rw [State.records, State.records, Vector.getElem_ofFn, Vector.getElem_ofFn]
  by_cases hcount : i < h.count
  · rw [if_pos hcount, if_pos hcount, State.record, State.record,
      memRead_eq_of_bytes_eq hm (hf.record_end_le hcount)]
  · rw [if_neg hcount, if_neg hcount]

/-- PKT_UNPACK gives the same results in a buffer that agrees on the packet (R193). -/
theorem PktFramed.pktUnpacked_eq_of_bytes_eq (hf : PktFramed s h)
    (hm : ∀ a, a ≤ h.len → State.byteAt { s with buf := m } a = s.byteAt a) :
    State.pktUnpacked { s with buf := m } h = { s.pktUnpacked h with buf := m } := by
  have hstamp := hf.stamp
  rw [State.pktUnpacked, hf.records_eq_of_bytes_eq hm, hm 0 (Nat.zero_le _),
    memRead_eq_of_bytes_eq hm (by omega)]
  rfl

end OtherBuffer

/-- Settles O41: the framing, the timestamp and every record lie at offsets up to `L`. -/
theorem bytesPastThePacketAreIgnored : Obligations.BytesPastThePacketAreIgnored := by
  unfold Obligations.BytesPastThePacketAreIgnored
  intro s t m hx hok hm
  obtain ⟨h, hc, rfl⟩ := exec_pktUnpack_eq_ok hx hok
  have hf := pktUnpackCheck_ok.1 hc
  rw [← hf.len_eq] at hm
  refine ⟨?_, State.pktUnpacked_rlen_toNat hc⟩
  rw [← hf.pktUnpacked_eq_of_bytes_eq hm]
  exact execPktUnpack_ok (pktUnpackCheck_ok.2 (hf.of_bytes_eq hm))

end Sys2Proof.Machine
end

section
/-! Exceptions: a failed command changes nothing but its report (60_exceptions.md R226), and the tags that raise
UNSUPPORTED_TYPE (R221). -/

namespace Sys2Proof.Machine

/-! ## All or nothing -/

/-- Settles O46, by the outcomes of a command. -/
theorem commandsAreAllOrNothing : Obligations.CommandsAreAllOrNothing := by
  unfold Obligations.CommandsAreAllOrNothing
  intro i s
  rcases exec_cases i s with ⟨e, he, hx⟩ | ⟨-, -, hx⟩ | ⟨-, w, -, hx⟩ | ⟨-, v, -, hx⟩ | ⟨-, v, -, hx⟩ |
    ⟨-, v, -, hx⟩ | ⟨-, h, -, hx⟩
  · exact ⟨_, hx, .inr ⟨he, rfl⟩⟩
  · exact ⟨_, hx, .inl s.tsPacked_err⟩
  · exact ⟨_, hx, .inl (s.tsUnpacked_err w)⟩
  · exact ⟨_, hx, .inl (s.rdEncoded_err v)⟩
  · exact ⟨_, hx, .inl (s.rdDecoded_err v)⟩
  · exact ⟨_, hx, .inl (s.pktPacked_err v)⟩
  · exact ⟨_, hx, .inl (s.pktUnpacked_err h)⟩

/-! ## The error a command reports is its check's -/

/-- A command that raises what its check answers, and else succeeds, reports exactly the check's error. -/
theorem reports_iff_check_error {α : Type} {s : State} {check : Except Err α} {done : α → State}
    {o : Host.Outcome State Fault Refusal} (herror : ∀ {e}, check = .error e → o = .next (s.raise e))
    (hok : ∀ {v}, check = .ok v → o = .next (done v)) (hdone : ∀ v, (done v).err = .ok) {e : Err} (he : e ≠ .ok) :
    (∃ t, o = .next t ∧ t.err = e) ↔ check = .error e := by
  constructor
  · rintro ⟨t, ht, hte⟩
    cases hc : check with
    | error e' =>
      cases (herror hc).symm.trans ht
      rw [← hte, State.raise_err]
    | ok v =>
      cases (hok hc).symm.trans ht
      exact absurd (hte.symm.trans (hdone v)) he
  · exact fun hc => ⟨s.raise e, herror hc, s.raise_err e⟩

/-! ## UNSUPPORTED_TYPE -/

theorem rdEncodeCheck_eq_unsupported {s : State} :
    rdEncodeCheck s = .error .unsupportedType ↔ viewOf s.tag = none :=
  ⟨fun h => by simpa using rdEncodeCheck_error h, fun h => by rw [rdEncodeCheck, h]⟩

theorem rdDecodeCheck_eq_unsupported {s : State} :
    rdDecodeCheck s = .error .unsupportedType ↔ viewOf s.tag = none :=
  ⟨fun h => by simpa using rdDecodeCheck_error h, fun h => by rw [rdDecodeCheck, h]⟩

theorem pktPackCheck_eq_unsupported {s : State} :
    pktPackCheck s = .error .unsupportedType ↔ viewOf s.tag = none :=
  ⟨fun h => by simpa using pktPackCheck_error h, fun h => by rw [pktPackCheck, h]⟩

theorem pktUnpackCheck_eq_unsupported {s : State} :
    pktUnpackCheck s = .error .unsupportedType ↔ 2 ≤ s.inle ∧ viewOf (s.byteAt 0) = none :=
  ⟨fun h => by simpa using pktUnpackCheck_error h,
    fun ⟨htwo, hview⟩ => by rw [pktUnpackCheck, if_neg (by omega), hview]⟩

theorem tsUnpackCheck_ne_unsupported (s : State) : tsUnpackCheck s ≠ .error .unsupportedType :=
  fun h => by simpa using tsUnpackCheck_error h

/-- The bound of R36 does not matter to the first two bytes. -/
theorem State.two_le_inle (s : State) : 2 ≤ s.inle ↔ 2 ≤ s.inlen.toNat := by
  rw [s.inle_eq]
  omega

/-- TS_PACK has the capacity check alone (R122). -/
theorem exec_tsPack_err_ne_unsupported {s t : State} (hx : exec .tsPack s = .next t) : t.err ≠ .unsupportedType := by
  rcases Nat.lt_or_ge s.cape (s.addr.toNat + tsWidth s.ext) with hover | hfits
  · cases (execTsPack_overflow hover).symm.trans hx
    rw [State.raise_err]
    decide
  · cases (execTsPack_fits hfits).symm.trans hx
    rw [State.tsPacked_err]
    decide

/-- Settles O52: the error each command reports is its check's, and the check of a tag fails where it has no view. -/
theorem unsupportedTypeIsForTagsWithoutView : Obligations.UnsupportedTypeIsForTagsWithoutView := by
  unfold Obligations.UnsupportedTypeIsForTagsWithoutView
  intro s
  have hne : Err.unsupportedType ≠ .ok := by decide
  refine ⟨fun i hi => ?_, ?_, fun i t hi hx => ?_⟩
  · rw [← viewOf_eq_none]
    rcases hi with rfl | rfl | rfl
    · exact (reports_iff_check_error execRdEncode_error execRdEncode_ok s.rdEncoded_err hne).trans
        rdEncodeCheck_eq_unsupported
    · exact (reports_iff_check_error execRdDecode_error execRdDecode_ok s.rdDecoded_err hne).trans
        rdDecodeCheck_eq_unsupported
    · exact (reports_iff_check_error execPktPack_error execPktPack_ok s.pktPacked_err hne).trans
        pktPackCheck_eq_unsupported
  · rw [← viewOf_eq_none, ← s.two_le_inle]
    exact (reports_iff_check_error execPktUnpack_error execPktUnpack_ok s.pktUnpacked_err hne).trans
      pktUnpackCheck_eq_unsupported
  · rcases hi with rfl | rfl
    · exact exec_tsPack_err_ne_unsupported hx
    · exact fun he => tsUnpackCheck_ne_unsupported s
        ((reports_iff_check_error execTsUnpack_error execTsUnpack_ok s.tsUnpacked_err hne).1 ⟨t, hx, he⟩)

end Sys2Proof.Machine
end

section
/-! Reset (70_reset_and_hazards.md R250): every register is 0. -/

namespace Sys2Proof.Machine

/-- The host's reset input leads to the state after the next numbered reset, from any state (R250). -/
theorem perform_reset (s : State) :
    perform .reset s = .next (State.resetWith (s.draws + 1) s.pending s.answers) := rfl

/-- STATUS is 0 when it reports no error, no overflow and no command in progress (R30). -/
theorem State.statusByte_eq_zero {s : State} (herr : s.err = .ok) (hfovf : s.fovf = false) (hbusy : s.busy = false) :
    s.statusByte = 0 := by
  rw [State.statusByte, herr, hfovf, hbusy]
  decide

/-- Every register reads 0 after a reset (R250), whatever the free draws of the memories (R251): no register's reset
value depends on them. -/
theorem State.resetWith_readReg (draw : Nat) (pending : List HostInput) (answers : List Half) (r : Reg) :
    (State.resetWith draw pending answers).readReg r = 0 := by
  cases r with
  | status =>
    have hstatus : (State.resetWith draw pending answers).statusByte = 0 := State.statusByte_eq_zero rfl rfl rfl
    rw [State.readReg, hstatus]
    rfl
  | _ => rfl

/-- Settles O15: a reset input leads to `State.resetWith`, and the machine's first state is one, whose registers all
read 0. -/
theorem resetClearsEveryRegister : Obligations.ResetClearsEveryRegister := by
  unfold Obligations.ResetClearsEveryRegister
  refine ⟨fun s => ⟨_, perform_reset s, State.resetWith_readReg _ _ _, ?_⟩, State.resetWith_readReg 0 [] []⟩
  exact ⟨rfl, rfl, rfl, rfl, rfl, rfl, rfl, rfl, rfl, rfl, rfl, rfl, rfl, rfl, rfl⟩

end Sys2Proof.Machine
end

section
/-! Encodings that decode to what they encode: command bytes (30_encoding.md R81), host transaction words (R100),
timestamps (40_timestamp.md R126 to R128) and readings (41_reading.md R164, R165). -/

namespace Sys2Proof.Machine

/-! ## Host transaction words -/

theorem encodeHtw_write_toNat (a : HostAddr) (d : Half) :
    (encodeHtw (.write a d)).toNat = 2 ^ 31 + a.toNat * 2 ^ 16 + d.toNat := by
  simp only [encodeHtw, toNat_concat]
  simp
  omega

theorem encodeHtw_read_toNat (a : HostAddr) : (encodeHtw (.read a)).toNat = a.toNat * 2 ^ 16 := by
  simp only [encodeHtw, toNat_concat]
  simp

theorem decodeHtw_encodeHtw (t : HostTxn) : decodeHtw (encodeHtw t) = .ok t := by
  cases t with
  | write a d =>
    have hw := encodeHtw_write_toNat a d
    rw [decodeHtw_of_write (by omega) (by omega), hw]
    have ha : BitVec.ofNat 12 ((2 ^ 31 + a.toNat * 2 ^ 16 + d.toNat) / 2 ^ 16) = a := by
      apply BitVec.eq_of_toNat_eq
      rw [BitVec.toNat_ofNat]
      omega
    have hd : BitVec.ofNat 16 (2 ^ 31 + a.toNat * 2 ^ 16 + d.toNat) = d := by
      apply BitVec.eq_of_toNat_eq
      rw [BitVec.toNat_ofNat]
      omega
    rw [ha, hd]
  | read a =>
    have hw := encodeHtw_read_toNat a
    rw [decodeHtw_of_not_write (by omega) (by omega), if_neg (by omega), hw, Nat.mul_div_cancel _ (by decide),
      BitVec.ofNat_toNat, BitVec.setWidth_eq]

theorem htwWellFormed_iff (w : Htw) :
    htwWellFormed w = true ↔ w.toNat / 2 ^ 28 % 8 = 0 ∧ (2 ^ 31 ≤ w.toNat ∨ w.toNat % 2 ^ 16 = 0) := by
  have hres := slice_eq_zero_iff 28 3 w
  have hdata := slice_eq_zero_iff 0 16 w
  rw [pow_zero, Nat.div_one] at hdata
  simp only [htwWellFormed, Bool.and_eq_true, Bool.or_eq_true, beq_iff_eq, htw_isWrite_iff, hdata]
  exact and_congr_left' hres

/-- The decoder's branches: an ill-formed word is an error, a well-formed one a write or a read by its bit 31. -/
theorem decodeHtw_cases (w : Htw) :
    (htwWellFormed w = false ∧ ∃ e, decodeHtw w = .error e) ∨
    (htwWellFormed w = true ∧ ∃ t, decodeHtw w = .ok t ∧ encodeHtw t = w) := by
  have hwf := htwWellFormed_iff w
  by_cases hres : w.toNat / 2 ^ 28 % 8 = 0
  · by_cases hwe : 2 ^ 31 ≤ w.toNat
    · refine .inr ⟨hwf.2 ⟨hres, .inl hwe⟩, _, decodeHtw_of_write hres hwe, BitVec.eq_of_toNat_eq ?_⟩
      rw [encodeHtw_write_toNat, BitVec.toNat_ofNat, BitVec.toNat_ofNat]
      omega
    · have hread := decodeHtw_of_not_write hres (Nat.not_le.1 hwe)
      by_cases hdata : w.toNat % 2 ^ 16 = 0
      · refine .inr ⟨hwf.2 ⟨hres, .inr hdata⟩, _, hread.trans (if_neg (not_not.2 hdata)),
          BitVec.eq_of_toNat_eq ?_⟩
        rw [encodeHtw_read_toNat, BitVec.toNat_ofNat]
        omega
      · exact .inl ⟨Bool.eq_false_iff.2 fun h => (hwf.1 h).2.elim hwe hdata, _, hread.trans (if_pos hdata)⟩
  · exact .inl ⟨Bool.eq_false_iff.2 fun h => hres (hwf.1 h).1, _, decodeHtw_of_reserved hres⟩

theorem htwWellFormed_iff_decodes (w : Htw) : htwWellFormed w = true ↔ ∃ t, decodeHtw w = .ok t := by
  rcases decodeHtw_cases w with ⟨hwf, e, he⟩ | ⟨hwf, t, ht, -⟩
  · simp [hwf, he]
  · simp [hwf, ht]

theorem encodeHtw_of_decodeHtw {w : Htw} {t : HostTxn} (h : decodeHtw w = .ok t) : encodeHtw t = w := by
  rcases decodeHtw_cases w with ⟨-, e, he⟩ | ⟨-, t', ht, henc⟩
  · cases he.symm.trans h
  · cases ht.symm.trans h
    exact henc

/-- Settles O3, by the fields of a word in numbers. -/
theorem hostWordRoundTrip : Obligations.HostWordRoundTrip := by
  unfold Obligations.HostWordRoundTrip
  exact ⟨decodeHtw_encodeHtw, fun _ _ => encodeHtw_of_decodeHtw, htwWellFormed_iff_decodes⟩

/-! ## Command bytes -/

/-- A byte list decodes to the command whose code is its first byte, with the rest left over (R81). -/
theorem decode_eq_ok {bytes rest : List Byte} {i : Instr} :
    decode bytes = .ok (i, rest) ↔ bytes = encode i ++ rest := by
  cases bytes with
  | nil => simp [decode, encode]
  | cons op ops =>
    have hop := decodeCommand_eq_ok (op := op) (i := i)
    rw [decode]
    cases hc : decodeCommand op with
    | error e =>
      rw [hc] at hop
      simp only [reduceCtorEq, false_iff] at hop
      simp [encode, hop]
    | ok j =>
      rw [hc, Except.ok.injEq] at hop
      simp [encode, hop]

/-- Settles O2: every command is well formed, and its code is its one byte. -/
theorem commandBytesRoundTrip : Obligations.CommandBytesRoundTrip := by
  unfold Obligations.CommandBytesRoundTrip
  exact ⟨fun _ _ _ => decode_eq_ok.2 rfl, fun _ _ _ => decode_eq_ok.1⟩

/-- Settles O5, by running the decoders. -/
theorem writtenOutWordsDecode : Obligations.WrittenOutWordsDecode := by
  unfold Obligations.WrittenOutWordsDecode
  decide

/-! ## Timestamps -/

theorem Timestamp.eq_iff_toNat (t u : Timestamp) :
    t = u ↔ t.sec.toNat = u.sec.toNat ∧ t.min.toNat = u.min.toNat ∧ t.hour.toNat = u.hour.toNat ∧
      t.dow.toNat = u.dow.toNat ∧ t.dom.toNat = u.dom.toNat ∧ t.mon.toNat = u.mon.toNat ∧
      t.year.toNat = u.year.toNat := by
  cases t
  cases u
  simp only [Timestamp.mk.injEq, ← BitVec.toNat_inj]

/-- Byte `k` of a packed timestamp in numbers (R88), 0 past the end. -/
theorem tsBytes_getD_toNat (ts : Timestamp) (e : Bool) (k : Nat) :
    ((tsBytes ts e).getD k 0).toNat =
      ([ts.hour.toNat % 4 * 64 + ts.min.toNat % 64, ts.dom.toNat % 32 * 8 + ts.hour.toNat / 4 % 8,
        ts.year.toNat % 16 * 16 + ts.mon.toNat % 16, (if e then 128 else 0) + ts.year.toNat / 16 % 128] ++
       if e then [ts.year.toNat / 2048 % 4 * 64 + ts.sec.toNat % 64] else []).getD k 0 := by
  rw [← timestampBytesLayout ts e]
  exact (List.getD_map (tsBytes ts e) (0 : Byte) BitVec.toNat).symm

theorem tsUnpack_tsBytes_ext (ts : Timestamp) (e : Bool) : (tsUnpack (tsBytes ts e)).ext = e := by
  rw [tsUnpack, tsExtract_ext, tsBytes_getD_toNat]
  cases e
  · exact decide_eq_false (by simp; omega)
  · exact decide_eq_true (by simp)

/-- Settles O23: a zero-extended slice from bit 0 is the field mod a power of two. -/
theorem timestampProjection : Obligations.TimestampProjection := by
  unfold Obligations.TimestampProjection
  intro ts e
  cases e <;> simp [tsProj] <;> omega

/-- Unpacking a packed timestamp gives its projection, field by field in numbers (R126, R127). -/
theorem tsUnpack_tsBytes_ts (ts : Timestamp) (e : Bool) : (tsUnpack (tsBytes ts e)).ts = tsProj ts e := by
  obtain ⟨hsec, hmin, hhour, hdow, hdom, hmon, hyear⟩ := timestampProjection ts e
  rw [Timestamp.eq_iff_toNat, hsec, hmin, hhour, hdow, hdom, hmon, hyear, tsUnpack, tsExtract_sec, tsExtract_min,
    tsExtract_hour, tsExtract_dom, tsExtract_mon, tsExtract_year]
  simp only [tsBytes_getD_toNat]
  refine ⟨?_, ?_, ?_, rfl, ?_, ?_, ?_⟩ <;> cases e <;> simp <;> omega

/-- R127 as one equation: projection, flag and width. -/
theorem tsUnpack_tsBytes (ts : Timestamp) (e : Bool) : tsUnpack (tsBytes ts e) = ⟨tsProj ts e, e, tsWidth e⟩ := by
  calc tsUnpack (tsBytes ts e)
      = ⟨(tsUnpack (tsBytes ts e)).ts, (tsUnpack (tsBytes ts e)).ext, tsWidth (tsUnpack (tsBytes ts e)).ext⟩ := rfl
    _ = ⟨tsProj ts e, e, tsWidth e⟩ := by rw [tsUnpack_tsBytes_ts, tsUnpack_tsBytes_ext]

/-- A timestamp is its own projection exactly when nothing of it is dropped (R123, R126). -/
theorem tsProj_eq_self_iff (ts : Timestamp) (e : Bool) :
    tsProj ts e = ts ↔ tsOvf ts e = false ∧ ts.dow = 0 ∧ (e = true ∨ ts.sec = 0) := by
  obtain ⟨hsec, hmin, hhour, hdow, hdom, hmon, hyear⟩ := timestampProjection ts e
  rw [Timestamp.eq_iff_toNat, hsec, hmin, hhour, hdow, hdom, hmon, hyear, fieldOverflowIsDroppedBits ts e,
    ← BitVec.toNat_inj, ← BitVec.toNat_inj]
  cases e <;> simp <;> omega

/-- Settles O24: the unpacked timestamp is the projection, which drops nothing exactly under these conditions. -/
theorem timestampRoundTrip : Obligations.TimestampRoundTrip := by
  unfold Obligations.TimestampRoundTrip
  intro ts e
  rw [tsUnpack_tsBytes, ← tsWidth_eq]
  exact ⟨rfl, tsProj_eq_self_iff ts e⟩

theorem byteList_eq_of_map_toNat {xs ys : List Byte} (h : xs.map BitVec.toNat = ys.map BitVec.toNat) : xs = ys :=
  List.map_injective_iff.2 (fun _ _ => BitVec.eq_of_toNat_eq) h

/-- Settles O25, in numbers: each byte is put together again from the fields it was cut into. -/
theorem timestampInverse : Obligations.TimestampInverse := by
  unfold Obligations.TimestampInverse
  intro b0 b1 b2 b3 b4
  rw [getLsbD_seven]
  refine ⟨fun hcompact => byteList_eq_of_map_toNat ?_, fun hext => byteList_eq_of_map_toNat ?_⟩
  · have hb3 : b3.toNat < 128 := by simpa using hcompact
    rw [timestampBytesLayout]
    simp [tsUnpack, tsExtract_min, tsExtract_hour, tsExtract_dom, tsExtract_mon, tsExtract_year, Nat.not_le.2 hb3]
    omega
  · have hb3 : 128 ≤ b3.toNat := by simpa using hext
    rw [timestampBytesLayout]
    simp [tsUnpack, tsExtract_min, tsExtract_hour, tsExtract_dom, tsExtract_mon, tsExtract_year, tsExtract_sec, hb3]
    omega

/-! ## Readings -/

theorem Reading.eq_of_get {r q : Reading} (h : ∀ f, r.get f = q.get f) : r = q := by
  cases r
  cases q
  simp only [Reading.mk.injEq]
  exact ⟨h .spd, h .gmax, h .gmin, h .dir, h .temp, h .pres, h .hum, h .volt⟩

theorem fieldOfBytes_eq (x : Half) : fieldOfBytes (x.extractLsb' 0 8) (x.extractLsb' 8 8) = x := by
  apply BitVec.eq_of_toNat_eq
  rw [fieldOfBytes_toNat, toNat_slice, toNat_slice]
  omega

/-- The field at offset `2 * k` of a run of fields' bytes is the `k`-th (R151, R155). -/
theorem fieldAt_flatMap {α : Type} (value : α → Half) (xs : List α) {k : Nat} (hk : k < xs.length) :
    fieldAt (xs.flatMap fun x => fieldBytes (value x)) (2 * k) = value xs[k] := by
  induction xs generalizing k with
  | nil => cases hk
  | cons x xs ih =>
    cases k with
    | zero => exact fieldOfBytes_eq (value x)
    | succ k => exact ih (Nat.lt_of_succ_lt_succ hk)

/-- A field of the projection: the reading's where the view carries it, else 0 (R164). -/
theorem project_get (r : Reading) (v : View) (f : Field) :
    (project r v).get f = if f ∈ v.fields then r.get f else 0 := by
  split
  · next hf =>
    exact Reading.get_foldl_set_of_mem id r.get (by rw [List.map_id]; exact v.fields_nodup) hf Reading.zero
  · next hf =>
    exact (Reading.get_foldl_set_of_forall_ne id r.get (fun g hg (heq : f = g) => hf (heq ▸ hg)) Reading.zero).trans
      (Reading.get_zero f)

theorem rdDecode_rdEncode (v : View) (r : Reading) : rdDecode v (rdEncode v r) = project r v := by
  refine Reading.eq_of_get fun f => ?_
  rw [project_get]
  split
  · next hf =>
    obtain ⟨k, hk, rfl⟩ := List.getElem_of_mem hf
    rw [rdDecode_get_fields v _ hk]
    exact fieldAt_flatMap r.get v.fields hk
  · next hf => exact rdDecode_get_of_notMem hf _

/-- Settles O31, field by field. -/
theorem readingRoundTrip : Obligations.ReadingRoundTrip := by
  unfold Obligations.ReadingRoundTrip
  exact fun v r => ⟨rdDecode_rdEncode v r, rdEncode_length v r, project_get r v⟩

theorem fieldBytes_fieldOfBytes (lo hi : Byte) : fieldBytes (fieldOfBytes lo hi) = [lo, hi] := by
  apply byteList_eq_of_map_toNat
  rw [fieldBytes_toNat, fieldOfBytes_toNat, List.map_cons, List.map_cons, List.map_nil]
  congr 2 <;> omega

/-- A list of `2 * n` bytes is the bytes of the `n` fields it holds. -/
theorem flatMap_fieldBytes_fieldAt {n : Nat} {bytes : List Byte} (h : bytes.length = 2 * n) :
    (List.range n).flatMap (fun k => fieldBytes (fieldAt bytes (2 * k))) = bytes := by
  induction n generalizing bytes with
  | zero => exact (List.eq_nil_of_length_eq_zero h).symm
  | succ n ih =>
    match bytes, h with
    | lo :: hi :: rest, h =>
      rw [List.range_succ_eq_map, List.flatMap_cons, List.flatMap_map]
      have hrest := ih (bytes := rest) (by simp only [List.length_cons] at h; omega)
      exact congrArg₂ (· ++ ·) (fieldBytes_fieldOfBytes lo hi) hrest

/-- Settles O32: the fields of a decoded record are those its bytes hold, in the view's order. -/
theorem readingInverse : Obligations.ReadingInverse := by
  unfold Obligations.ReadingInverse
  intro v bytes hlen
  have hvalues : v.fields.map (rdDecode v bytes).get =
      (List.range v.fields.length).map fun k => fieldAt bytes (2 * k) := by
    refine List.ext_getElem (by simp) fun k hk _ => ?_
    rw [List.length_map] at hk
    simp [rdDecode_get_fields v bytes hk]
  calc rdEncode v (rdDecode v bytes)
      = (v.fields.map (rdDecode v bytes).get).flatMap fieldBytes := (List.flatMap_map ..).symm
    _ = bytes := by
      rw [hvalues, List.flatMap_map, flatMap_fieldBytes_fieldAt (hlen.trans v.rw_eq)]

/-- Settles O33: bit 15 of the pattern is its sign. -/
theorem temperatureIsTwosComplement : Obligations.TemperatureIsTwosComplement := by
  unfold Obligations.TemperatureIsTwosComplement
  intro r
  have hsign : r.temp.getLsbD 15 = decide (2 ^ 15 ≤ r.temp.toNat) := by
    rw [← r.temp.msb_eq_decide, BitVec.msb_eq_getLsbD_last]
  rw [Reading.tempValue, hsign, BitVec.toInt_eq_toNat_cond]
  split <;> simp_all <;> omega

end Sys2Proof.Machine
end

section
/-! The packet: its layout (42_packet.md R180), the sequence that writes it (R181), its largest sizes (R185), and what
PKT_UNPACK finds in a buffer that holds one (R196 to R199). -/

namespace Sys2Proof.Machine

/-! ## Layout -/

/-- Where every chunk has length `width`, chunk `i` stands at offset `i * width`. -/
theorem take_drop_flatMap {α : Type} {chunk : α → List Byte} {width : Nat} (hwidth : ∀ x, (chunk x).length = width)
    {xs : List α} {i : Nat} (hi : i < xs.length) :
    ((xs.flatMap chunk).drop (i * width)).take width = chunk xs[i] := by
  induction xs generalizing i with
  | nil => cases hi
  | cons x xs ih =>
    rw [List.flatMap_cons]
    cases i with
    | zero => rw [Nat.zero_mul, List.drop_zero, List.take_left' (hwidth x), List.getElem_cons_zero]
    | succ i =>
      rw [Nat.succ_mul, Nat.add_comm, ← List.drop_drop, List.drop_left' (hwidth x), List.getElem_cons_succ]
      exact ih (Nat.lt_of_succ_lt_succ hi)

section Layout

variable (tag : Byte) (v : View) (ts : Timestamp) (e : Bool) (rs : List Reading)

theorem pktBytes_stamp : ((pktBytes tag v ts e rs).drop 2).take (tsWidth e) = tsBytes ts e :=
  List.take_left' (tsBytes_length ts e)

theorem pktBytes_record {i : Nat} (hi : i < rs.length) :
    ((pktBytes tag v ts e rs).drop (2 + tsWidth e + i * v.rw)).take v.rw = rdEncode v rs[i] := by
  rw [← List.drop_drop, ← List.drop_drop]
  have hrecords : ((pktBytes tag v ts e rs).drop 2).drop (tsWidth e) = rs.flatMap (rdEncode v) :=
    List.drop_left' (tsBytes_length ts e)
  rw [hrecords, take_drop_flatMap (rdEncode_length v) hi]

end Layout

/-- The length byte of a packet that fits in BUF does not wrap (R95). -/
theorem lengthByte_toNat {v : View} {e : Bool} {n : Nat} (h : pktTotal v e n ≤ 256) :
    (BitVec.ofNat 8 (pktTotal v e n - 1)).toNat = pktTotal v e n - 1 := by
  rw [BitVec.toNat_ofNat, Nat.mod_eq_of_lt (by omega)]

/-- Settles O36: the packet's length, and its parts cut out at their offsets. -/
theorem packetBytesLayout : Obligations.PacketBytesLayout := by
  unfold Obligations.PacketBytesLayout
  intro tag v ts e rs hfits
  simp only [← tsWidth_eq] at hfits ⊢
  refine ⟨pktBytes_length .., rfl, ?_, pktBytes_stamp .., fun i hi => pktBytes_record tag v ts e rs hi⟩
  refine congrArg some ((lengthByte_toNat hfits).trans ?_)
  rw [pktTotal]
  omega

/-! ## The framer's sequence -/

theorem Memory.writeList_append (m : Memory) (a : Nat) (xs ys : List Byte) :
    m.writeList a (xs ++ ys) = (m.writeList a xs).writeList (a + xs.length) ys := by
  induction xs generalizing m a with
  | nil => rfl
  | cons x xs ih =>
    rw [List.cons_append, Memory.writeList, ih, Memory.writeList, List.length_cons, Nat.add_assoc, Nat.add_comm 1]

theorem Framer.append_append (fr : Framer) (xs ys : List Byte) :
    (fr.append xs).append ys = fr.append (xs ++ ys) := by
  simp only [Framer.append, Memory.writeList_append, List.length_append, Nat.add_assoc]

/-- Appending chunk by chunk appends them all (R181 step 4). -/
theorem Framer.foldl_append {α : Type} (chunk : α → List Byte) (xs : List α) (fr : Framer) :
    xs.foldl (fun fr x => fr.append (chunk x)) fr = fr.append (xs.flatMap chunk) := by
  induction xs generalizing fr with
  | nil => rfl
  | cons x xs ih => rw [List.foldl_cons, ih, Framer.append_append, List.flatMap_cons]

/-- A byte written over after the bytes behind it is as one written at once (R181 step 5). -/
theorem Memory.write_after_writeList {m : Memory} (hm : m.wf) (a : Nat) (old new : Byte) (bytes : List Byte)
    (hin : a + 1 + bytes.length ≤ Config.bufSize) :
    ((m.write a old).writeList (a + 1) bytes).write a new = (m.write a new).writeList (a + 1) bytes := by
  have hwf (b : Byte) : ((m.write a b).writeList (a + 1) bytes).wf :=
    Memory.writeList_wf bytes (Memory.write_wf hm a b) (a + 1)
  refine Memory.ext_cellAt (Memory.write_wf (hwf old) a new).1 (hwf new).1 fun b => ?_
  simp only [Memory.cellAt_write, Memory.cellAt_writeList _ _ _ _ hin]
  by_cases hb : b = a
  · have ha : a < Config.bufSize := by omega
    simp [hb, ha]
  · simp only [hb, false_and, if_false]

/-- Settles O37: the appended chunks are the packet's bytes from offset 2, and only the placeholder is written over. -/
theorem framerSequenceWritesThePacket : Obligations.FramerSequenceWritesThePacket := by
  unfold Obligations.FramerSequenceWritesThePacket
  intro buf tag placeholder v ts e rs hbuf hfits
  rw [← pktTotal_eq] at hfits ⊢
  have hlen := pktBytes_length tag v ts e rs
  have hbody : (pktBytes tag v ts e rs).length = 2 + (tsBytes ts e ++ rs.flatMap (rdEncode v)).length := by
    simp only [pktBytes, List.append_assoc, List.length_append]
    rfl
  rw [framerSequence, Framer.foldl_append, Framer.append_append, Framer.append]
  simp only
  rw [← hbody, hlen, Memory.write_after_writeList (Memory.write_wf hbuf 0 tag) 1 _ _ _ (hbody ▸ hlen ▸ hfits)]
  rfl

/-! ## Sizes -/

theorem exec_pktPack_eq_ok {s t : State} (hx : exec .pktPack s = .next t) (hok : t.err = .ok) :
    ∃ v, pktPackCheck s = .ok v ∧ t = s.pktPacked v := by
  cases hc : pktPackCheck s with
  | ok v => exact ⟨v, rfl, Host.Outcome.next.inj (hx.symm.trans (execPktPack_ok hc))⟩
  | error e =>
    cases hx.symm.trans (execPktPack_error hc)
    rcases pktPackCheck_error hc with ⟨rfl, -⟩ | ⟨rfl, -⟩ <;> cases hok

/-- With a tag that has a view, PKT_PACK succeeds exactly where the packet fits the capacity (R183). -/
theorem succeeds_pktPack_iff {s : State} {v : View} (hview : viewOf s.tag = some v) :
    Succeeds (exec .pktPack s) ↔ pktTotal v s.ext s.nrd.toNat ≤ s.cape := by
  constructor
  · rintro ⟨t, hx, hok⟩
    obtain ⟨u, hc, -⟩ := exec_pktPack_eq_ok hx hok
    obtain ⟨hu, hfits⟩ := pktPackCheck_ok.1 hc
    obtain rfl : u = v := Option.some.inj (hu.symm.trans hview)
    exact hfits
  · exact fun hfits => ⟨_, execPktPack_ok (pktPackCheck_ok.2 ⟨hview, hfits⟩), s.pktPacked_err v⟩

/-- A packet fits in BUF exactly up to 15 readings of 16 bytes or 31 of 8, in either form (R185). -/
theorem pktTotal_le_iff (v : View) (e : Bool) (n : Nat) :
    pktTotal v e n ≤ 256 ↔ n ≤ if v = .full then 15 else 31 := by
  have hts := tsWidth_bounds e
  rw [pktTotal]
  rcases v.rw_cases with ⟨hrw, hv⟩ | ⟨hrw, hv⟩
  · rw [hrw, if_pos hv]
    omega
  · rw [hrw, if_neg hv]
    omega

/-- Settles O39: what fits the capacity fits in BUF, and with CAP at least 256 the two are one. -/
theorem largestReadingCounts : Obligations.LargestReadingCounts := by
  unfold Obligations.LargestReadingCounts
  intro s v hview
  have hfull (hcap : 256 ≤ s.cap.toNat) : s.cape = 256 := by rw [s.cape_eq, Nat.min_eq_right hcap]
  refine ⟨fun hok => ?_, fun hcap => ?_, fun hcap hmax => ?_⟩
  · have hfits : pktTotal v s.ext s.nrd.toNat ≤ 256 := ((succeeds_pktPack_iff hview).1 hok).trans s.cape_le
    have hts := (tsWidth_bounds s.ext).1
    refine ⟨?_, count_le_of_pktTotal_le hfits⟩
    rw [pktTotal] at hfits
    omega
  · rw [succeeds_pktPack_iff hview, hfull hcap, pktTotal_le_iff]
  · have hfits := (pktTotal_le_iff v s.ext s.nrd.toNat).2 hmax.le
    refine ⟨_, execPktPack_ok (pktPackCheck_ok.2 ⟨hview, hfull hcap ▸ hfits⟩), s.pktPacked_err v, ?_⟩
    rw [State.pktPacked_rlen, rlen_toNat hfits, pktTotal_eq, hmax]
    cases v <;> cases s.ext <;> rfl

/-! ## A packet in BUF -/

/-- BUF starts with the packet of these readings, which fits in it. -/
structure HoldsPacket (s : State) (tag : Byte) (v : View) (ts : Timestamp) (e : Bool) (rs : List Reading) : Prop where
  fits : pktTotal v e rs.length ≤ 256
  bytes : s.memRead 0 (pktTotal v e rs.length) = pktBytes tag v ts e rs

/-- A read inside the bytes read from offset 0. -/
theorem State.take_drop_memRead (s : State) {a len n : Nat} (h : a + len ≤ n) :
    ((s.memRead 0 n).drop a).take len = s.memRead a len := by
  refine List.ext_getElem (by simp; omega) fun k _ _ => ?_
  simp [State.memRead]

theorem two_add_tsWidth_le_pktTotal (v : View) (e : Bool) (n : Nat) : 2 + tsWidth e ≤ pktTotal v e n :=
  Nat.le_add_right ..

/-- Record `i` of `n` ends inside the packet. -/
theorem record_end_le_pktTotal (v : View) (e : Bool) {i n : Nat} (hi : i < n) :
    2 + tsWidth e + i * v.rw + v.rw ≤ pktTotal v e n := by
  have hnext : (i + 1) * v.rw ≤ n * v.rw := Nat.mul_le_mul_right _ hi
  rw [Nat.succ_mul] at hnext
  rw [pktTotal]
  omega

section HoldsPacket

variable {s : State} {tag : Byte} {v : View} {ts : Timestamp} {e : Bool} {rs : List Reading}

theorem HoldsPacket.byteAt (hp : HoldsPacket s tag v ts e rs) {k : Nat} (hk : k < pktTotal v e rs.length) :
    s.byteAt k = (pktBytes tag v ts e rs).getD k 0 := by
  rw [← hp.bytes, s.memRead_getD _ _ _ hk, Nat.zero_add]

theorem HoldsPacket.tag_eq (hp : HoldsPacket s tag v ts e rs) : s.byteAt 0 = tag :=
  hp.byteAt (by rw [pktTotal]; omega)

theorem HoldsPacket.length_eq (hp : HoldsPacket s tag v ts e rs) :
    (s.byteAt 1).toNat = pktTotal v e rs.length - 1 := by
  rw [hp.byteAt (by rw [pktTotal]; omega)]
  exact lengthByte_toNat hp.fits

theorem HoldsPacket.stamp (hp : HoldsPacket s tag v ts e rs) : s.memRead 2 (tsWidth e) = tsBytes ts e := by
  rw [← s.take_drop_memRead (two_add_tsWidth_le_pktTotal v e rs.length), hp.bytes, pktBytes_stamp]

theorem HoldsPacket.record (hp : HoldsPacket s tag v ts e rs) {i : Nat} (hi : i < rs.length) :
    s.memRead (2 + tsWidth e + i * v.rw) v.rw = rdEncode v rs[i] := by
  rw [← s.take_drop_memRead (record_end_le_pktTotal v e hi), hp.bytes, pktBytes_record]

/-- The flag bit of the packet's timestamp is bit 7 of byte 5 (R88, R95). -/
theorem HoldsPacket.flag (hp : HoldsPacket s tag v ts e rs) : (s.byteAt 5).getLsbD 7 = e := by
  have hfour := (tsWidth_bounds e).1
  calc (s.byteAt 5).getLsbD 7
      = (tsUnpack (s.memRead 2 (tsWidth e))).ext := by
        rw [tsUnpack, s.memRead_getD _ _ 3 (by omega)]
        rfl
    _ = e := by rw [hp.stamp, tsUnpack_tsBytes_ext]

/-- What PKT_UNPACK learns from the framing of this packet (R190). -/
theorem HoldsPacket.framed (hp : HoldsPacket s tag v ts e rs) (hview : viewOf tag = some v)
    (hlen : pktTotal v e rs.length ≤ s.inle) :
    PktFramed s ⟨v, pktTotal v e rs.length - 1, e, rs.length⟩ := by
  have hts := (tsWidth_bounds e).1
  have htotal : pktTotal v e rs.length = 2 + tsWidth e + rs.length * v.rw := rfl
  have hrecords : pktTotal v e rs.length - 1 - 1 - tsWidth e = rs.length * v.rw := by omega
  have hrw : 0 < v.rw := by cases v <;> decide
  exact {
    two := by omega
    view := by rw [hp.tag_eq, hview]
    len_eq := hp.length_eq.symm
    ext_eq := hp.flag.symm
    five := by simp only; omega
    inside := by simp only; omega
    stamp := by simp only; omega
    exact := by simp only; rw [hrecords, Nat.mul_mod_left]
    count_eq := by simp only; rw [hrecords, Nat.mul_div_cancel _ hrw] }

end HoldsPacket

theorem State.le_inle {s : State} {n : Nat} (hn : n ≤ 256) (h : n ≤ s.inlen.toNat) : n ≤ s.inle := by
  rw [s.inle_eq]
  omega

/-- Settles O43: the packet's framing passes every check, with its own count and length. -/
theorem framingTerminates : Obligations.FramingTerminates := by
  unfold Obligations.FramingTerminates
  intro s tag v ts e rs total hview htotal hfits hbytes hlen
  obtain rfl : total = pktTotal v e rs.length := htotal.trans (pktTotal_eq ..).symm
  have hp : HoldsPacket s tag v ts e rs := ⟨hfits, hbytes⟩
  have hc := pktUnpackCheck_ok.2 (hp.framed hview (State.le_inle hfits hlen))
  have hcount := count_le_of_pktTotal_le hfits
  refine ⟨by rw [hp.length_eq]; omega, _, execPktUnpack_ok hc, State.pktUnpacked_err .., ?_, ?_⟩
  · have hbyte : rs.length < 2 ^ 8 := by omega
    rw [State.pktUnpacked_onrd, BitVec.toNat_ofNat]
    exact Nat.mod_eq_of_lt hbyte
  · rw [State.pktUnpacked_rlen_toNat hc, hp.length_eq]
    omega

/-! ## Packing, then unpacking -/

theorem State.readings_length (s : State) {n : Nat} (h : n ≤ 31) : (s.readings n).length = n := by
  rw [State.readings, List.length_take, Vector.length_toList, Nat.min_eq_left (h.trans (by decide))]

theorem State.readings_getElem (s : State) {n i : Nat} (h : i < (s.readings n).length) (hi : i < 32) :
    (s.readings n)[i] = s.rdin[i] := by
  simp [State.readings]

/-- After a successful PKT_PACK, BUF holds the packet of the first NRD readings (R183). -/
theorem State.pktPacked_holdsPacket {s : State} {v : View} (hc : pktPackCheck s = .ok v) :
    HoldsPacket (s.pktPacked v) s.tag v s.ts s.ext (s.readings s.nrd.toNat) := by
  have hin : pktTotal v s.ext s.nrd.toNat ≤ Config.bufSize := (pktPackCheck_ok.1 hc).2.trans s.cape_le
  have hlen := s.readings_length (count_le_of_pktTotal_le hin)
  constructor
  · rw [hlen]
    exact hin
  · rw [hlen, State.pktPacked_memRead hin]

/-- Settles O42: BUF holds the packet, and the capacity check keeps its length byte and RLEN from wrapping. -/
theorem lengthPrefixIsTotalMinusOne : Obligations.LengthPrefixIsTotalMinusOne := by
  unfold Obligations.LengthPrefixIsTotalMinusOne
  intro s t hx hok
  obtain ⟨v, hc, rfl⟩ := exec_pktPack_eq_ok hx hok
  have hin : pktTotal v s.ext s.nrd.toNat ≤ Config.bufSize := (pktPackCheck_ok.1 hc).2.trans s.cape_le
  have hp := State.pktPacked_holdsPacket hc
  rw [hp.length_eq, s.readings_length (count_le_of_pktTotal_le hin), State.pktPacked_rlen, rlen_toNat hin]
  exact ⟨rfl, by rw [pktTotal]; omega⟩

/-- Settles O44: the packed buffer holds the packet, whose framing is the header PKT_UNPACK works from; its timestamp
and records then come back as their projections. -/
theorem packetRoundTrip : Obligations.PacketRoundTrip := by
  unfold Obligations.PacketRoundTrip
  intro s t inlen hx hok hlen
  obtain ⟨v, hc, rfl⟩ := exec_pktPack_eq_ok hx hok
  obtain ⟨hview, hcap⟩ := pktPackCheck_ok.1 hc
  have hin : pktTotal v s.ext s.nrd.toNat ≤ 256 := hcap.trans s.cape_le
  have hcount := s.readings_length (count_le_of_pktTotal_le hin)
  obtain ⟨hfits, hbytes⟩ := State.pktPacked_holdsPacket hc
  have hp : HoldsPacket { s.pktPacked v with inlen := inlen } s.tag v s.ts s.ext (s.readings s.nrd.toNat) :=
    ⟨hfits, hbytes⟩
  rw [State.pktPacked_rlen, rlen_toNat hin] at hlen
  have hf := hp.framed hview (State.le_inle hfits (by rw [hcount]; exact hlen))
  have hcheck := pktUnpackCheck_ok.2 hf
  refine ⟨v, _, hview, execPktUnpack_ok hcheck, State.pktUnpacked_err .., ?_, ?_, ?_, ?_, fun i => ?_, ?_,
    State.pktUnpacked_buf ..⟩
  · rw [State.pktUnpacked_otag, hp.tag_eq]
  · rw [State.pktUnpacked_oext, hf.tsUnpack_ext]
  · rw [State.pktUnpacked_ots, tsUnpack_ts_dow, hp.stamp, tsUnpack_tsBytes_ts]
  · rw [State.pktUnpacked_onrd, hcount, BitVec.ofNat_toNat, BitVec.setWidth_eq]
  · rw [State.pktUnpacked_rdout_get, hcount]
    split
    · next hi =>
      have hi' : i.val < (s.readings s.nrd.toNat).length := by rw [hcount]; exact hi
      rw [State.record, hp.record hi', rdDecode_rdEncode, s.readings_getElem hi' i.isLt]
      rfl
    · rfl
  · rw [State.pktUnpacked_rlen_toNat hcheck, hp.length_eq, hcount, pktTotal_eq]
    omega

/-! ## The reference's loop -/

/-- From a cursor one past `c`, with records of more than one byte, the loop decodes all `n` of them. -/
theorem referenceLoop_eq {rw n rounds : Nat} (hrw : 1 < rw) (hn : n ≤ rounds) (c : Nat) :
    referenceLoop rounds (c + 1) (c + n * rw) rw = n := by
  induction n generalizing rounds c with
  | zero =>
    cases rounds with
    | zero => rfl
    | succ rounds => exact if_neg (by omega)
  | succ n ih =>
    obtain ⟨rounds, rfl⟩ : ∃ k, rounds = k + 1 := ⟨rounds - 1, by omega⟩
    have hnext := ih (rounds := rounds) (by omega) (c + rw)
    have hcursor : c + rw + 1 = c + 1 + rw := Nat.add_right_comm ..
    have hend : c + rw + n * rw = c + (n + 1) * rw := by rw [Nat.succ_mul]; omega
    rw [hcursor, hend] at hnext
    rw [referenceLoop, if_pos (by rw [Nat.succ_mul]; omega), hnext, Nat.add_comm]

/-- Settles O45: each record has more than one byte, so the cursor passes `L` with the last of them. -/
theorem referenceLoopAgrees : Obligations.ReferenceLoopAgrees := by
  unfold Obligations.ReferenceLoopAgrees
  intro v e n rounds hn
  have hrw : 1 < v.rw := by cases v <;> decide
  refine ⟨?_, fun k hk => ?_, by omega⟩
  · have hloop := referenceLoop_eq hrw hn (1 + tsWidth e)
    rwa [Nat.add_right_comm] at hloop
  · have hnext : (k + 1) * v.rw ≤ n * v.rw := Nat.mul_le_mul_right _ hk
    rw [Nat.succ_mul] at hnext
    omega

end Sys2Proof.Machine
end

section
/-! What every command keeps and writes (10_state.md R27 to R42, 20_memory.md R65 to R70), when it fails
(60_exceptions.md R224, R227; 70_reset_and_hazards.md R253), and what it reads (R67, 92_eei_decisions.md D28). -/

namespace Sys2Proof.Machine

/-! ## The state a command leaves -/

/-- The state after a command: an error's, or that of one of the six successes. -/
theorem exec_next_cases {i : Instr} {s t : State} (ht : exec i s = .next t) :
    (∃ e, e ≠ .ok ∧ t = s.raise e) ∨
    (i = .tsPack ∧ s.addr.toNat + tsWidth s.ext ≤ s.cape ∧ t = s.tsPacked) ∨
    (i = .tsUnpack ∧ ∃ w, tsUnpackCheck s = .ok w ∧ t = s.tsUnpacked w) ∨
    (i = .rdEncode ∧ ∃ v, rdEncodeCheck s = .ok v ∧ t = s.rdEncoded v) ∨
    (i = .rdDecode ∧ ∃ v, rdDecodeCheck s = .ok v ∧ t = s.rdDecoded v) ∨
    (i = .pktPack ∧ ∃ v, pktPackCheck s = .ok v ∧ t = s.pktPacked v) ∨
    (i = .pktUnpack ∧ ∃ h, pktUnpackCheck s = .ok h ∧ t = s.pktUnpacked h) := by
  have hcases := exec_cases i s
  simpa only [ht, Host.Outcome.next.injEq] using hcases

/-- Settles O48, by the outcomes of a command. -/
theorem commandsKeepTheirOperands : Obligations.CommandsKeepTheirOperands := by
  unfold Obligations.CommandsKeepTheirOperands
  intro i s t ht
  rcases exec_next_cases ht with ⟨e, -, rfl⟩ | ⟨-, -, rfl⟩ | ⟨-, w, -, rfl⟩ | ⟨-, v, -, rfl⟩ | ⟨-, v, -, rfl⟩ |
    ⟨-, v, -, rfl⟩ | ⟨-, h, -, rfl⟩ <;> simp

/-- Settles O49, by the outcomes of a command. -/
theorem outputsHaveTheirWriters : Obligations.OutputsHaveTheirWriters := by
  unfold Obligations.OutputsHaveTheirWriters
  intro i s t ht
  rcases exec_next_cases ht with ⟨e, -, rfl⟩ | ⟨rfl, -, rfl⟩ | ⟨rfl, w, -, rfl⟩ | ⟨rfl, v, -, rfl⟩ | ⟨rfl, v, -, rfl⟩ |
    ⟨rfl, v, -, rfl⟩ | ⟨rfl, h, -, rfl⟩ <;> simp

/-- Settles O51, by the outcomes of a command: an error and every other success clear FOVF. -/
theorem fovfReportsMaskedPacks : Obligations.FovfReportsMaskedPacks := by
  unfold Obligations.FovfReportsMaskedPacks
  intro i s t ht
  rcases exec_next_cases ht with ⟨e, he, rfl⟩ | ⟨rfl, -, rfl⟩ | ⟨rfl, w, -, rfl⟩ | ⟨rfl, v, -, rfl⟩ | ⟨rfl, v, -, rfl⟩ |
    ⟨rfl, v, -, rfl⟩ | ⟨rfl, h, -, rfl⟩
  · simp [he]
  all_goals simp

/-- Settles O50: an error writes no byte, and a pack that fits its capacity writes the bytes it reports. -/
theorem packsWriteInsideTheirRange : Obligations.PacksWriteInsideTheirRange := by
  unfold Obligations.PacksWriteInsideTheirRange
  intro i s t start ht hstart
  rw [← s.cape_eq]
  rcases exec_next_cases ht with ⟨e, he, rfl⟩ | ⟨rfl, hfits, rfl⟩ | ⟨rfl, w, -, rfl⟩ | ⟨rfl, v, hv, rfl⟩ |
    ⟨rfl, v, -, rfl⟩ | ⟨rfl, v, hv, rfl⟩ | ⟨rfl, h, -, rfl⟩
  · exact ⟨fun b _ => s.raise_byteAt e b, fun hok => absurd hok he⟩
  · obtain rfl : start = s.addr.toNat := by simpa using hstart
    have hin := hfits.trans s.cape_le
    rw [State.tsPacked_rlen, rlen_toNat (by omega)]
    exact ⟨fun b hb => State.tsPacked_byteAt_outside hin hb, fun _ => hfits⟩
  · simp at hstart
  · obtain rfl : start = s.addr.toNat := by simpa using hstart
    obtain ⟨-, hfits⟩ := rdEncodeCheck_ok.1 hv
    have hin := hfits.trans s.cape_le
    rw [State.rdEncoded_rlen, rlen_toNat (by omega)]
    exact ⟨fun b hb => State.rdEncoded_byteAt_outside hin hb, fun _ => hfits⟩
  · simp at hstart
  · obtain rfl : start = 0 := by simpa using hstart
    obtain ⟨-, hfits⟩ := pktPackCheck_ok.1 hv
    have hin := hfits.trans s.cape_le
    rw [State.pktPacked_rlen, rlen_toNat hin, Nat.zero_add]
    exact ⟨fun b hb => State.pktPacked_byteAt_past hin (hb.resolve_left b.not_lt_zero), fun _ => hfits⟩
  · simp at hstart

/-! ## Capacity and input length of 0 -/

/-- Settles O53: with no capacity and no declared input, the first check of a length fails. -/
theorem capAndInlenMustBeSet : Obligations.CapAndInlenMustBeSet := by
  unfold Obligations.CapAndInlenMustBeSet
  refine fun s => ⟨fun hcap => ?_, fun hinlen => ?_⟩
  · have hcape : s.cape = 0 := by rw [s.cape_eq, hcap]; rfl
    have hts := (tsWidth_bounds s.ext).1
    refine ⟨execTsPack_overflow (by omega), fun v hview => ⟨execRdEncode_overflow hview ?_,
      execPktPack_overflow hview ?_⟩⟩
    · rcases v.rw_cases with ⟨hrw, -⟩ | ⟨hrw, -⟩ <;> omega
    · rw [pktTotal]
      omega
  · have hinle : s.inle = 0 := by rw [s.inle_eq, hinlen]; rfl
    have hts := (tsWidth_bounds ((s.byteAt (s.addr.toNat + 3)).getLsbD 7)).1
    refine ⟨execTsUnpack_truncated (by omega), execPktUnpack_truncated (.inl (by omega)) fun h hf => ?_,
      fun v hview => execRdDecode_truncated hview ?_⟩
    · have htwo := hf.two
      omega
    · rcases v.rw_cases with ⟨hrw, -⟩ | ⟨hrw, -⟩ <;> omega

/-! ## A command issued again -/

/-- A command reads none of ERR, FOVF and RLEN, and writes all three (R228). -/
theorem exec_forgets_result (i : Instr) (s : State) (err : Err) (fovf : Bool) (rlen : BitVec 9) :
    exec i { s with err := err, fovf := fovf, rlen := rlen } = exec i s := by
  cases i <;> rfl

/-- Settles O54: the error's state differs from the one before it in what a command does not read. -/
theorem failedCommandFailsAgain : Obligations.FailedCommandFailsAgain := by
  unfold Obligations.FailedCommandFailsAgain
  intro i s t ht hfail
  obtain ⟨t', ht', hor⟩ := commandsAreAllOrNothing i s
  cases ht'.symm.trans ht
  obtain ⟨-, hraise⟩ := hor.resolve_left hfail
  rw [hraise, exec_forgets_result, ← hraise]
  exact ht

/-- Writing a run of bytes again changes nothing more. -/
theorem Memory.writeList_writeList {m : Memory} (hm : m.wf) (a : Nat) (bytes : List Byte)
    (hin : a + bytes.length ≤ Config.bufSize) :
    (m.writeList a bytes).writeList a bytes = m.writeList a bytes := by
  have hwf := Memory.writeList_wf bytes hm a
  refine Memory.ext_cellAt (Memory.writeList_wf bytes hwf a).1 hwf.1 fun b => ?_
  simp only [Memory.cellAt_writeList _ _ _ _ hin]
  split <;> rfl

theorem State.memWrite_memWrite {s : State} (hs : s.buf.wf) (a : Nat) (bytes : List Byte)
    (hin : a + bytes.length ≤ Config.bufSize) : (s.memWrite a bytes).memWrite a bytes = s.memWrite a bytes := by
  rw [State.memWrite, State.memWrite_buf, Memory.writeList_writeList hs a bytes hin]
  rfl

/-! ### The same success twice -/

section SameBuffer

variable {s t : State} (hbuf : t.buf = s.buf) (hdraws : t.draws = s.draws)
include hbuf hdraws

theorem State.memRead_eq_of_buf_eq (a n : Nat) : t.memRead a n = s.memRead a n :=
  State.memRead_congr t s a n fun k _ => State.byteAt_congr t s hbuf hdraws (a + k)

theorem State.records_eq_of_buf_eq (h : PktHeader) : t.records h = s.records h := by
  simp only [State.records, State.record, State.memRead_eq_of_buf_eq hbuf hdraws]

/-- The checks of TS_UNPACK read BUF, ADDR and INLEN alone (R124). -/
theorem tsUnpackCheck_congr (haddr : t.addr = s.addr) (hinlen : t.inlen = s.inlen) :
    tsUnpackCheck t = tsUnpackCheck s := by
  simp only [tsUnpackCheck, State.inle, State.byteAt_congr t s hbuf hdraws, haddr, hinlen]
  rfl

/-- The checks of PKT_UNPACK read BUF and INLEN alone (R190). -/
theorem pktUnpackCheck_congr (hinlen : t.inlen = s.inlen) : pktUnpackCheck t = pktUnpackCheck s := by
  simp only [pktUnpackCheck, State.inle, State.byteAt_congr t s hbuf hdraws, hinlen]
  rfl

end SameBuffer

theorem exec_tsPack_again {s : State} (hs : s.buf.wf) (hfits : s.addr.toNat + tsWidth s.ext ≤ s.cape) :
    exec .tsPack s.tsPacked = .next s.tsPacked := by
  have hin := hfits.trans s.cape_le
  rw [← tsBytes_length s.ts] at hin
  have hsame : s.tsPacked.tsPacked = s.tsPacked := by
    apply State.ext_fields <;> simp [Memory.writeList_writeList hs _ _ hin]
  exact (execTsPack_fits (s := s.tsPacked) hfits).trans (congrArg _ hsame)

theorem exec_tsUnpack_again {s : State} {w : Nat} (hc : tsUnpackCheck s = .ok w) :
    exec .tsUnpack (s.tsUnpacked w) = .next (s.tsUnpacked w) := by
  have hbuf := s.tsUnpacked_buf w
  have hdraws := s.tsUnpacked_draws w
  have hread := State.memRead_eq_of_buf_eq hbuf hdraws
  have hsame : (s.tsUnpacked w).tsUnpacked w = s.tsUnpacked w := by apply State.ext_fields <;> simp [hread]
  have hagain := tsUnpackCheck_congr hbuf hdraws (s.tsUnpacked_addr w) (s.tsUnpacked_inlen w)
  exact (execTsUnpack_ok (hagain.trans hc)).trans (congrArg _ hsame)

theorem exec_rdEncode_again {s : State} {v : View} (hs : s.buf.wf) (hc : rdEncodeCheck s = .ok v) :
    exec .rdEncode (s.rdEncoded v) = .next (s.rdEncoded v) := by
  have hin := (rdEncodeCheck_ok.1 hc).2.trans s.cape_le
  rw [← rdEncode_length v s.rdin[0]] at hin
  have hsame : (s.rdEncoded v).rdEncoded v = s.rdEncoded v := by
    apply State.ext_fields <;> simp [Memory.writeList_writeList hs _ _ hin]
  exact (execRdEncode_ok (s := s.rdEncoded v) hc).trans (congrArg _ hsame)

theorem exec_rdDecode_again {s : State} {v : View} (hc : rdDecodeCheck s = .ok v) :
    exec .rdDecode (s.rdDecoded v) = .next (s.rdDecoded v) := by
  have hread := State.memRead_eq_of_buf_eq (s.rdDecoded_buf v) (s.rdDecoded_draws v)
  have hsame : (s.rdDecoded v).rdDecoded v = s.rdDecoded v := by apply State.ext_fields <;> simp [hread]
  exact (execRdDecode_ok (s := s.rdDecoded v) hc).trans (congrArg _ hsame)

theorem exec_pktPack_again {s : State} {v : View} (hs : s.buf.wf) (hc : pktPackCheck s = .ok v) :
    exec .pktPack (s.pktPacked v) = .next (s.pktPacked v) := by
  have hin : 0 + (pktBytes s.tag v s.ts s.ext (s.readings s.nrd.toNat)).length ≤ Config.bufSize := by
    have hfits := (pktPackCheck_ok.1 hc).2.trans s.cape_le
    rw [State.packet_length hfits, Nat.zero_add]
    exact hfits
  have hreadings : (s.pktPacked v).readings s.nrd.toNat = s.readings s.nrd.toNat := by
    rw [State.readings, s.pktPacked_rdin v, State.readings]
  have hsame : (s.pktPacked v).pktPacked v = s.pktPacked v := by
    apply State.ext_fields <;> simp [hreadings, Memory.writeList_writeList hs _ _ hin]
  exact (execPktPack_ok (s := s.pktPacked v) hc).trans (congrArg _ hsame)

theorem exec_pktUnpack_again {s : State} {h : PktHeader} (hc : pktUnpackCheck s = .ok h) :
    exec .pktUnpack (s.pktUnpacked h) = .next (s.pktUnpacked h) := by
  have hbuf := s.pktUnpacked_buf h
  have hdraws := s.pktUnpacked_draws h
  have hsame : (s.pktUnpacked h).pktUnpacked h = s.pktUnpacked h := by
    apply State.ext_fields <;> simp [State.memRead_eq_of_buf_eq hbuf hdraws, State.records_eq_of_buf_eq hbuf hdraws,
      State.byteAt_congr _ _ hbuf hdraws]
  exact (execPktUnpack_ok ((pktUnpackCheck_congr hbuf hdraws (s.pktUnpacked_inlen h)).trans hc)).trans
    (congrArg _ hsame)

/-- Settles O55: a pack writes the same bytes from the same operands, and an unpack reads none of its outputs. -/
theorem commandsAreIdempotent : Obligations.CommandsAreIdempotent := by
  unfold Obligations.CommandsAreIdempotent
  intro i s t hs ht
  rcases exec_next_cases ht with ⟨e, he, rfl⟩ | ⟨rfl, hfits, rfl⟩ | ⟨rfl, w, hw, rfl⟩ | ⟨rfl, v, hv, rfl⟩ |
    ⟨rfl, v, hv, rfl⟩ | ⟨rfl, v, hv, rfl⟩ | ⟨rfl, h, hh, rfl⟩
  · exact failedCommandFailsAgain i s _ ht he
  · exact exec_tsPack_again hs hfits
  · exact exec_tsUnpack_again hw
  · exact exec_rdEncode_again hs hv
  · exact exec_rdDecode_again hv
  · exact exec_pktPack_again hs hv
  · exact exec_pktUnpack_again hh

/-! ## What an unpack does not read -/

section OtherBuffer

variable {s : State} {m : Memory} (hm : ∀ a, a < s.inle → State.byteAt { s with buf := m } a = s.byteAt a)
include hm

/-- A read inside the declared input is the same in a buffer that agrees on it. -/
theorem memRead_eq_of_declared_eq {a n : Nat} (hend : a + n ≤ s.inle) :
    State.memRead { s with buf := m } a n = s.memRead a n :=
  State.memRead_congr _ _ _ _ fun k hk => hm (a + k) (by omega)

/-- TS_UNPACK looks at byte 3 once the first four are declared (R124). -/
theorem tsUnpackCheck_eq_of_declared_eq : tsUnpackCheck { s with buf := m } = tsUnpackCheck s := by
  by_cases hfour : s.addr.toNat + 4 > s.inle
  · exact (if_pos hfour).trans (if_pos hfour).symm
  · have hthree := hm (s.addr.toNat + 3) (by omega)
    simp only [tsUnpackCheck, hthree]
    rfl

/-- PKT_UNPACK looks at bytes 0 and 1 once two are declared, and at byte 5 once the length byte is inside (R190). -/
theorem pktUnpackCheck_eq_of_declared_eq : pktUnpackCheck { s with buf := m } = pktUnpackCheck s := by
  have hinle : State.inle { s with buf := m } = s.inle := rfl
  by_cases htwo : s.inle < 2
  · exact (if_pos htwo).trans (if_pos htwo).symm
  · simp only [pktUnpackCheck, hinle, hm 0 (by omega), hm 1 (by omega)]
    by_cases hinside : 5 ≤ (s.byteAt 1).toNat ∧ (s.byteAt 1).toNat + 1 ≤ s.inle
    · rw [hm 5 (by omega)]
    · cases viewOf (s.byteAt 0) with
      | none => rfl
      | some v =>
        rcases Nat.lt_or_ge (s.byteAt 1).toNat 5 with hshort | hfive
        · simp only [if_pos hshort]
        · have hpast : (s.byteAt 1).toNat + 1 > s.inle := by omega
          simp only [if_neg (Nat.not_lt.2 hfive), if_pos hpast]

theorem State.tsUnpacked_eq_of_declared_eq {w : Nat} (hend : s.addr.toNat + w ≤ s.inle) :
    State.tsUnpacked { s with buf := m } w = { s.tsUnpacked w with buf := m } := by
  rw [State.tsUnpacked, memRead_eq_of_declared_eq hm hend]
  rfl

theorem State.rdDecoded_eq_of_declared_eq {v : View} (hend : s.addr.toNat + v.rw ≤ s.inle) :
    State.rdDecoded { s with buf := m } v = { s.rdDecoded v with buf := m } := by
  rw [State.rdDecoded, memRead_eq_of_declared_eq hm hend]
  rfl

end OtherBuffer

/-- A command whose check answers alike in two states has outcomes that differ as the states do: where `change` takes
the one error's state, and the one success, to the other. -/
theorem next_of_check_eq {α : Type} {run : State → Host.Outcome State Fault Refusal} {check : State → Except Err α}
    {done : State → α → State} (herror : ∀ {s e}, check s = .error e → run s = .next (s.raise e))
    (hok : ∀ {s v}, check s = .ok v → run s = .next (done s v)) {s s' t : State}
    (ht : run s = .next t) (change : State → State) (hcheck : check s' = check s)
    (hraise : ∀ e, s'.raise e = change (s.raise e))
    (hdone : ∀ v, check s = .ok v → done s' v = change (done s v)) : run s' = .next (change t) := by
  cases hc : check s with
  | error e =>
    cases (herror hc).symm.trans ht
    rw [herror (hcheck.trans hc), hraise]
  | ok v =>
    cases (hok hc).symm.trans ht
    rw [hok (hcheck.trans hc), hdone v hc]

/-- Settles O56: the checks agree, and so do the reads they let a command make. -/
theorem unpacksReadOnlyDeclaredInput : Obligations.UnpacksReadOnlyDeclaredInput := by
  unfold Obligations.UnpacksReadOnlyDeclaredInput
  intro i s t m hi ht hdeclared
  have hm : ∀ a, a < s.inle → State.byteAt { s with buf := m } a = s.byteAt a := hdeclared
  rcases hi with rfl | rfl | rfl
  · exact next_of_check_eq execTsUnpack_error execTsUnpack_ok ht ({ · with buf := m })
      (tsUnpackCheck_eq_of_declared_eq hm) (fun _ => rfl)
      (fun _ hc => State.tsUnpacked_eq_of_declared_eq hm (tsUnpackCheck_ok.1 hc).2)
  · exact next_of_check_eq execRdDecode_error execRdDecode_ok ht ({ · with buf := m }) rfl (fun _ => rfl)
      (fun _ hc => State.rdDecoded_eq_of_declared_eq hm (rdDecodeCheck_ok.1 hc).2)
  · refine next_of_check_eq execPktUnpack_error execPktUnpack_ok ht ({ · with buf := m })
      (pktUnpackCheck_eq_of_declared_eq hm) (fun _ => rfl) (fun h hc => ?_)
    have hf := pktUnpackCheck_ok.1 hc
    exact hf.pktUnpacked_eq_of_bytes_eq fun a ha => hm a (by have := hf.inside; omega)

/-- Settles O57: neither the checks nor the state after them reads the registers that change. -/
theorem unpackFormComesFromData : Obligations.UnpackFormComesFromData := by
  unfold Obligations.UnpackFormComesFromData
  refine fun s t tag addr nrd ext => ⟨fun ht => ?_, fun ht => ?_⟩
  · exact next_of_check_eq execTsUnpack_error execTsUnpack_ok ht ({ · with ext := ext })
      (tsUnpackCheck_congr rfl rfl rfl rfl) (fun _ => rfl) (fun _ _ => rfl)
  · exact next_of_check_eq execPktUnpack_error execPktUnpack_ok ht
      ({ · with tag := tag, ext := ext, nrd := nrd, addr := addr })
      (pktUnpackCheck_congr rfl rfl rfl) (fun _ => rfl) (fun _ _ => rfl)

/-! ## Free draws -/

theorem rdinDraw_get (draw i : Nat) (f : Field) :
    (rdinDraw draw i).get f = Config.rdinAtReset draw (8 * i + f.index) := by
  cases f <;> rfl

theorem rdoutDraw_get (draw i : Nat) (f : Field) :
    (rdoutDraw draw i).get f = Config.rdoutAtReset draw (8 * i + f.index) := by
  cases f <;> rfl

/-- Settles O16: after reset BUF lists no cell, each entry of RDIN and RDOUT is its own draw, and a command keeps the
number of the draw. -/
theorem resetDrawsEveryMemoryLocation : Obligations.ResetDrawsEveryMemoryLocation := by
  unfold Obligations.ResetDrawsEveryMemoryLocation
  refine ⟨fun s => ⟨_, perform_reset s, rfl, fun a => rfl, fun i f => ?_, fun i f => ?_⟩, fun i s t ht => ?_⟩
  · rw [← rdinDraw_get, State.resetWith, Fin.getElem_fin, Vector.getElem_ofFn]
  · rw [← rdoutDraw_get, State.resetWith, Fin.getElem_fin, Vector.getElem_ofFn]
  · obtain ⟨-, -, -, -, -, -, -, -, -, hdraws, -, -⟩ := commandsKeepTheirOperands i s t ht
    exact hdraws

end Sys2Proof.Machine
end

section
/-! The host port: where each address leads (10_state.md R22), what a read returns (R22 to R24, R30) and what a write
changes (R23, R72). -/

namespace Sys2Proof.Machine

/-! ## Addresses -/

theorem Field.index_lt (f : Field) : f.index < 8 := by cases f <;> decide

theorem Field.index_ofIndex (n : Nat) : (Field.ofIndex n).index = n % 8 := by
  have hall : ∀ k < 8, (Field.all.getD k .spd).index = k := by decide
  exact hall (n % 8) (Nat.mod_lt n (by decide))

theorem Field.ofIndex_add_index (n : Nat) (f : Field) : Field.ofIndex (8 * n + f.index) = f := by
  have hmod : (8 * n + f.index) % 8 = f.index := by
    have hlt := f.index_lt
    omega
  rw [Field.ofIndex, hmod]
  cases f <;> rfl

theorem readingIndex_val (n : Nat) : (readingIndex n).val = n / 8 % 32 := rfl

theorem readingIndex_add_index (i : Fin 32) (f : Field) : readingIndex (8 * i.val + f.index) = i := by
  have hlt := f.index_lt
  have hi := i.isLt
  exact Fin.ext (show (8 * i.val + f.index) / 8 % 32 = i.val by omega)

theorem locate_buf {a : HostAddr} (h : a.toNat < 0x100) : locate a = .buf a.toNat := if_pos h

theorem locate_rdin {a : HostAddr} {i : Fin 32} {f : Field} (h : a.toNat = 0x100 + 8 * i.val + f.index) :
    locate a = .rdin i f := by
  have hlt := f.index_lt
  have hi := i.isLt
  have hoffset : a.toNat - 0x100 = 8 * i.val + f.index := by omega
  rw [locate, if_neg (by omega), if_pos (by omega), hoffset, readingIndex_add_index, Field.ofIndex_add_index]

theorem locate_rdout_eq {a : HostAddr} {i : Fin 32} {f : Field} (h : a.toNat = 0x200 + 8 * i.val + f.index) :
    locate a = .rdout i f := by
  have hlt := f.index_lt
  have hi := i.isLt
  have hoffset : a.toNat - 0x200 = 8 * i.val + f.index := by omega
  rw [locate, if_neg (by omega), if_neg (by omega), if_pos (by omega), hoffset, readingIndex_add_index,
    Field.ofIndex_add_index]

/-- The row an address falls in has that address (R22). -/
theorem address?_locate {a : HostAddr} (h : locate a ≠ .reserved) : (locate a).address? = some a.toNat := by
  unfold locate at h ⊢
  split
  · rfl
  · split
    · refine congrArg some ?_
      rw [Field.index_ofIndex, readingIndex_val]
      omega
    · split
      · refine congrArg some ?_
        rw [Field.index_ofIndex, readingIndex_val]
        omega
      · split
        · next r hr => exact congrArg some (by simpa using List.find?_some hr)
        · simp_all

/-- Two addresses never share a row that holds state (R22). -/
theorem eq_of_locate_eq {a b : HostAddr} (h : locate a ≠ .reserved) (hab : locate b = locate a) : b = a := by
  have ha := address?_locate h
  have hb := address?_locate (hab ▸ h)
  rw [hab, ha] at hb
  exact (BitVec.eq_of_toNat_eq (Option.some.inj hb)).symm

/-! ## Reads -/

theorem State.hostRead_buf (s : State) {a : HostAddr} {n : Nat} (h : locate a = .buf n) :
    s.hostRead a = (s.byteAt n).setWidth 16 := by rw [State.hostRead, h]

theorem State.hostRead_rdin (s : State) {a : HostAddr} {i : Fin 32} {f : Field} (h : locate a = .rdin i f) :
    s.hostRead a = s.rdin[i].get f := by rw [State.hostRead, h]

theorem State.hostRead_rdout (s : State) {a : HostAddr} {i : Fin 32} {f : Field} (h : locate a = .rdout i f) :
    s.hostRead a = s.rdout[i].get f := by rw [State.hostRead, h]

theorem State.hostRead_register (s : State) (r : Reg) : s.hostRead (BitVec.ofNat 12 r.address) = s.readReg r :=
  s.hostRead_reg ((locate_eq_reg _ r).2 (by cases r <;> rfl))

theorem flag_setWidth (b : Bool) : (BitVec.ofBool b).setWidth 16 = if b then 1 else 0 := by cases b <;> rfl

/-- Settles O17, row by row. -/
theorem hostReadsTheAddressMap : Obligations.HostReadsTheAddressMap := by
  unfold Obligations.HostReadsTheAddressMap
  intro s
  have hext := (s.hostRead_register .ext).trans (flag_setWidth s.ext)
  have hoext := (s.hostRead_register .oext).trans (flag_setWidth s.oext)
  refine ⟨fun a ha => ?_, fun i f => ?_, fun i f => ?_, s.hostRead_register .cmd, s.hostRead_register .status,
    s.hostRead_register .tag, hext, s.hostRead_register .addr, s.hostRead_register .nrd, s.hostRead_register .cap,
    s.hostRead_register .inlen, s.hostRead_register .tsSec, s.hostRead_register .tsMin, s.hostRead_register .tsHour,
    s.hostRead_register .tsDow, s.hostRead_register .tsDom, s.hostRead_register .tsMon, s.hostRead_register .tsYear,
    s.hostRead_register .rlen, s.hostRead_register .otag, hoext, s.hostRead_register .onrd,
    s.hostRead_register .otsSec, s.hostRead_register .otsMin, s.hostRead_register .otsHour,
    s.hostRead_register .otsDow, s.hostRead_register .otsDom, s.hostRead_register .otsMon,
    s.hostRead_register .otsYear, fun a ha => s.hostRead_reserved (locate_reserved ha)⟩
  · have hadr : (BitVec.ofNat 12 a).toNat = a := by rw [BitVec.toNat_ofNat]; omega
    rw [s.hostRead_buf (locate_buf (hadr.symm ▸ ha)), hadr]
  · have hlt := f.index_lt
    have hi := i.isLt
    exact s.hostRead_rdin (locate_rdin (by rw [BitVec.toNat_ofNat]; omega))
  · have hlt := f.index_lt
    have hi := i.isLt
    exact s.hostRead_rdout (locate_rdout_eq (by rw [BitVec.toNat_ofNat]; omega))

/-- STATUS in numbers: BUSY in bit 7, FOVF in bit 3, the code of ERR below (R30). -/
theorem State.statusByte_toNat (s : State) :
    s.statusByte.toNat = s.err.code.toNat + (if s.fovf then 8 else 0) + if s.busy then 128 else 0 := by
  simp only [State.statusByte, toNat_concat]
  cases s.fovf <;> cases s.busy <;> simp <;> omega

/-- Settles O18, by the code of each error. -/
theorem statusReadsItsFields : Obligations.StatusReadsItsFields := by
  unfold Obligations.StatusReadsItsFields
  intro s
  have hread : s.hostRead 0x301#12 = s.statusByte.setWidth 16 := s.hostRead_register .status
  rw [hread, BitVec.toNat_setWidth_of_le (by decide), s.statusByte_toNat]
  cases s.err <;> rfl

/-! ## Writes -/

theorem State.hostStore_buf (s : State) {a : HostAddr} {n : Nat} (h : locate a = .buf n) (d : Half) :
    s.hostStore a d = s.memWrite n [d.setWidth 8] := by rw [State.hostStore, h]

theorem State.hostStore_rdin (s : State) {a : HostAddr} {i : Fin 32} {f : Field} (h : locate a = .rdin i f)
    (d : Half) : s.hostStore a d = { s with rdin := s.rdin.set i (s.rdin[i].set f d) } := by rw [State.hostStore, h]

/-- Where a write of a register changes what a register reads, it is the register written. -/
theorem State.readReg_writeReg (s : State) (r q : Reg) (d : Half) :
    (s.writeReg r d).readReg q = if q = r then (s.writeReg r d).readReg r else s.readReg q := by
  cases r <;> cases q <;> rfl

/-- The low `n` bits of the data, zero-extended (R23). -/
theorem lowBits_toNat (d : Half) {n : Nat} (h : n ≤ 16) : ((d.setWidth n).setWidth 16).toNat = d.toNat % 2 ^ n := by
  rw [BitVec.toNat_setWidth_of_le h, BitVec.toNat_setWidth]

theorem lowBit_toNat (d : Half) : ((BitVec.ofBool (d.getLsbD 0)).setWidth 16).toNat = d.toNat % 2 ^ 1 := by
  rw [flag_setWidth, BitVec.getLsbD, Nat.testBit_zero]
  rcases Nat.mod_two_eq_zero_or_one d.toNat with h | h <;> rw [pow_one, h] <;> rfl

/-- A read/write register reads back the low bits of its width, zero-extended (R23). -/
theorem State.readReg_writeReg_toNat (s : State) {r : Reg} (h : r.readWrite = true) (d : Half) :
    ((s.writeReg r d).readReg r).toNat = d.toNat % 2 ^ r.width := by
  cases r with
  | tag | addr | nrd | tsSec | tsMin | tsHour | tsDow | tsDom | tsMon => exact lowBits_toNat d (n := 8) (by decide)
  | cap | inlen => exact lowBits_toNat d (n := 9) (by decide)
  | ext => exact lowBit_toNat d
  | tsYear => exact (Nat.mod_eq_of_lt d.isLt).symm
  | cmd | status | rlen | otag | oext | onrd => cases h
  | otsSec | otsMin | otsHour | otsDow | otsDom | otsMon | otsYear => cases h

section WriteReg

variable (s : State) (r : Reg) (d : Half)

theorem State.writeReg_byteAt (a : Nat) : (s.writeReg r d).byteAt a = s.byteAt a := by cases r <;> rfl

theorem State.writeReg_rdin : (s.writeReg r d).rdin = s.rdin := by cases r <;> rfl

theorem State.writeReg_rdout : (s.writeReg r d).rdout = s.rdout := by cases r <;> rfl

end WriteReg

/-- A write of a register changes what no other row reads. -/
theorem State.hostRead_writeReg_ne (s : State) {r : Reg} (d : Half) {b : HostAddr} (h : locate b ≠ .reg r) :
    (s.writeReg r d).hostRead b = s.hostRead b := by
  cases hb : locate b with
  | buf n => rw [State.hostRead_buf _ hb, State.hostRead_buf _ hb, State.writeReg_byteAt]
  | rdin i f => rw [State.hostRead_rdin _ hb, State.hostRead_rdin _ hb, State.writeReg_rdin]
  | rdout i f => rw [State.hostRead_rdout _ hb, State.hostRead_rdout _ hb, State.writeReg_rdout]
  | reg q =>
    have hne : q ≠ r := fun heq => h (heq ▸ hb)
    rw [State.hostRead_reg _ hb, State.hostRead_reg _ hb, State.readReg_writeReg, if_neg hne]
  | reserved => rw [State.hostRead_reserved _ hb, State.hostRead_reserved _ hb]

/-- A write of one byte changes no other byte. -/
theorem State.memWrite_byteAt_ne (s : State) {n m : Nat} (h : m ≠ n) (x : Byte) :
    (s.memWrite n [x]).byteAt m = s.byteAt m := by
  have hcell : (s.buf.write n x).cellAt m = s.buf.cellAt m := by
    rw [Memory.cellAt_write, if_neg (fun hc => h hc.1)]
  exact congrArg (Option.getD · _) hcell

/-- A write of one byte changes what no other row reads. -/
theorem State.hostRead_memWrite_ne (s : State) {n : Nat} (x : Byte) {b : HostAddr} (h : locate b ≠ .buf n) :
    (s.memWrite n [x]).hostRead b = s.hostRead b := by
  cases hb : locate b with
  | buf m =>
    have hne : m ≠ n := fun heq => h (heq ▸ hb)
    rw [State.hostRead_buf _ hb, State.hostRead_buf _ hb, s.memWrite_byteAt_ne hne]
  | _ => simp only [State.hostRead, hb] <;> rfl

/-- What an entry's field holds after another field of RDIN, or the same one, is set. -/
theorem rdin_set_get (rdin : Vector Reading 32) (i j : Fin 32) (f g : Field) (x : Half) :
    (rdin.set i (rdin[i].set f x))[j].get g = if j = i ∧ g = f then x else rdin[j].get g := by
  by_cases hj : j = i
  · subst hj
    simp [Reading.get_set]
  · have hne : i.val ≠ j.val := fun heq => hj (Fin.ext heq.symm)
    simp [hj, Vector.getElem_set_ne _ _ hne]

theorem State.hostRead_set_rdin_ne (s : State) {i : Fin 32} {f : Field} (d : Half) {b : HostAddr}
    (h : locate b ≠ .rdin i f) :
    State.hostRead { s with rdin := s.rdin.set i (s.rdin[i].set f d) } b = s.hostRead b := by
  cases hb : locate b with
  | rdin j g =>
    have hne : ¬ (j = i ∧ g = f) := fun ⟨hj, hg⟩ => h (hj ▸ hg ▸ hb)
    rw [State.hostRead_rdin _ hb, State.hostRead_rdin _ hb]
    exact (rdin_set_get s.rdin i j f g d).trans (if_neg hne)
  | _ => simp only [State.hostRead, hb] <;> rfl

/-- A write changes what no other address reads (R72). -/
theorem State.hostRead_hostStore_ne (s : State) {a b : HostAddr} (h : b ≠ a) (d : Half) :
    (s.hostStore a d).hostRead b = s.hostRead b := by
  have hne {l : Loc} (ha : locate a = l) (hl : l ≠ .reserved) : locate b ≠ l :=
    fun hb => h (eq_of_locate_eq (ha.symm ▸ hl) (hb.trans ha.symm))
  cases ha : locate a with
  | buf n => rw [s.hostStore_buf ha, s.hostRead_memWrite_ne _ (hne ha (by simp))]
  | rdin i f => rw [s.hostStore_rdin ha, s.hostRead_set_rdin_ne _ (hne ha (by simp))]
  | rdout i f => rw [s.hostStore_rdout ha]
  | reg r => rw [s.hostStore_reg ha, s.hostRead_writeReg_ne _ (hne ha (by simp))]
  | reserved => rw [s.hostStore_reserved ha]

/-- The rows the host can write and read back, with the bits they keep (R22, R23). -/
inductive Loc.Keeps : Loc → Nat → Prop where
  | buf {n : Nat} (h : n < Config.bufSize) : Keeps (.buf n) 8
  | rdin (i : Fin 32) (f : Field) : Keeps (.rdin i f) 16
  | reg {r : Reg} (h : r.readWrite = true) : Keeps (.reg r) r.width

/-- The next read of a row that keeps `w` bits returns the low `w` bits written (R23). -/
theorem State.hostRead_hostStore_same (s : State) {a : HostAddr} {w : Nat} (h : (locate a).Keeps w) (d : Half) :
    ((s.hostStore a d).hostRead a).toNat = d.toNat % 2 ^ w := by
  cases ha : locate a with
  | buf n =>
    rw [ha] at h
    cases h with
    | buf hn =>
      rw [s.hostStore_buf ha, State.hostRead_buf _ ha]
      have hbyte := s.memWrite_byteAt n [d.setWidth 8] n (by simpa using hn)
      rw [dif_pos (by simp)] at hbyte
      rw [hbyte]
      simpa using lowBits_toNat d (n := 8) (by decide)
  | rdin i f =>
    rw [ha] at h
    cases h
    rw [s.hostStore_rdin ha, State.hostRead_rdin _ ha]
    have hfield := (rdin_set_get s.rdin i i f f d).trans (if_pos ⟨rfl, rfl⟩)
    exact (congrArg BitVec.toNat hfield).trans (Nat.mod_eq_of_lt d.isLt).symm
  | reg r =>
    rw [ha] at h
    cases h with
    | reg hr => rw [s.hostStore_reg ha, State.hostRead_reg _ ha, s.readReg_writeReg_toNat hr]
  | rdout i f => rw [ha] at h; cases h
  | reserved => rw [ha] at h; cases h

/-- The addresses and widths of the read/write registers (R22). -/
theorem exists_readWrite_reg {n w : Nat}
    (h : (n ∈ [0x302, 0x304, 0x305, 0x308, 0x309, 0x30A, 0x30B, 0x30C, 0x30D] ∧ w = 8) ∨ (n = 0x303 ∧ w = 1) ∨
      (n ∈ [0x306, 0x307] ∧ w = 9) ∨ (n = 0x30E ∧ w = 16)) :
    ∃ r : Reg, r.readWrite = true ∧ n = r.address ∧ w = r.width := by
  have hbytes : ∀ n ∈ [0x302, 0x304, 0x305, 0x308, 0x309, 0x30A, 0x30B, 0x30C, 0x30D],
      ∃ r ∈ Reg.all, r.readWrite = true ∧ n = r.address ∧ 8 = r.width := by decide
  have hnines : ∀ n ∈ [0x306, 0x307], ∃ r ∈ Reg.all, r.readWrite = true ∧ n = r.address ∧ 9 = r.width := by decide
  rcases h with ⟨hn, rfl⟩ | ⟨rfl, rfl⟩ | ⟨hn, rfl⟩ | ⟨rfl, rfl⟩
  · obtain ⟨r, -, hr⟩ := hbytes n hn
    exact ⟨r, hr⟩
  · exact ⟨.ext, rfl, rfl, rfl⟩
  · obtain ⟨r, -, hr⟩ := hnines n hn
    exact ⟨r, hr⟩
  · exact ⟨.tsYear, rfl, rfl, rfl⟩

/-- The read/write rows of R22 and their widths, by address. -/
theorem locate_keeps {a : HostAddr} {w : Nat}
    (h : (a.toNat < 0x100 ∧ w = 8) ∨ (0x100 ≤ a.toNat ∧ a.toNat < 0x200 ∧ w = 16) ∨
      (a.toNat ∈ [0x302, 0x304, 0x305, 0x308, 0x309, 0x30A, 0x30B, 0x30C, 0x30D] ∧ w = 8) ∨
      (a = 0x303#12 ∧ w = 1) ∨ (a.toNat ∈ [0x306, 0x307] ∧ w = 9) ∨ (a = 0x30E#12 ∧ w = 16)) :
    (locate a).Keeps w := by
  simp only [← BitVec.toNat_inj] at h
  rcases h with ⟨hlt, rfl⟩ | ⟨hge, hlt, rfl⟩ | hreg
  · rw [locate_buf hlt]
    exact .buf hlt
  · rw [locate, if_neg (by omega), if_pos hlt]
    exact .rdin _ _
  · obtain ⟨r, hr, hadr, rfl⟩ := exists_readWrite_reg hreg
    rw [(locate_eq_reg a r).2 hadr]
    exact .reg hr

/-- Settles O20: the row an address falls in keeps the low bits written, and no other address shares it. -/
theorem hostWriteThenRead : Obligations.HostWriteThenRead := by
  unfold Obligations.HostWriteThenRead
  intro s a d w h
  have hcmd : a ≠ 0x300#12 := by rintro rfl; simp at h
  exact ⟨_, transact_store hcmd, s.hostRead_hostStore_same (locate_keeps h) d, fun b hb => s.hostRead_hostStore_ne hb d⟩

end Sys2Proof.Machine
end

section
/-! Steps (10_state.md R21, R29, R43; 70_reset_and_hazards.md R252, R260), the invariant of the block
(10_state.md section 3) and the assembler's pseudo-instructions (30_encoding.md R101). -/

namespace Sys2Proof.Machine

/-! ## One step -/

/-- Settles O7, by the definition of a step. -/
theorem stepPerformsTheNextInput : Obligations.StepPerformsTheNextInput := by
  unfold Obligations.StepPerformsTheNextInput
  intro s inp rest h
  rw [step, h]

/-- Settles O13: no input is the first case of a step. -/
theorem blockWaitsForTheHost : Obligations.BlockWaitsForTheHost := by
  unfold Obligations.BlockWaitsForTheHost
  exact fun _ => step_waits

/-- The code a write to CMD carries is the low byte of its data (R29). -/
theorem transact_write_cmd {d : Half} {i : Instr} (h : d.setWidth 8 = encodeCommand i) (s : State) :
    transact (.write 0x300#12 d) s = exec i s := by
  have hlow : d.extractLsb' 0 8 = d.setWidth 8 := BitVec.eq_of_toNat_eq (by simp)
  exact transact_command (decodeCommand_eq_ok.2 (hlow.trans h))

/-- Settles O8: the byte is the command's code, and the write runs it. -/
theorem stepRunsDecodedCommand : Obligations.StepRunsDecodedCommand := by
  unfold Obligations.StepRunsDecodedCommand
  intro s w rest d i hp hidle hw hd _
  have hcode : d.setWidth 8 = encodeCommand i := by simpa [encode] using decode_eq_ok.1 hd
  rw [step_transacts hp hw (.inl hidle), transact_write_cmd hcode]

/-- A table word of 8 bits stands for the command whose code is its low byte. -/
theorem decodeTableWord_eq_some {w : Nat} {i : Instr} :
    decodeTableWord 8 w = some i ↔ BitVec.ofNat 8 w = encodeCommand i := by
  have hbytes : tableBytes 8 w = [BitVec.ofNat 8 w] := by simp [tableBytes]
  rw [decodeTableWord, hbytes]
  constructor
  · intro h
    split at h
    · next j rest hj =>
      cases h
      exact (List.cons.inj (decode_eq_ok.1 hj)).1
    · cases h
  · intro h
    rw [decode_eq_ok.2 (show [BitVec.ofNat 8 w] = encode i ++ [] by rw [h]; rfl)]

/-- Settles O9: the word placed is that of a write of the code to CMD. -/
theorem fetchWordRunsTableWord : Obligations.FetchWordRunsTableWord := by
  unfold Obligations.FetchWordRunsTableWord
  intro s w i h
  have hcode : (BitVec.ofNat 16 (w % 2 ^ 8)).setWidth 8 = encodeCommand i := by
    rw [← decodeTableWord_eq_some.1 h]
    apply BitVec.eq_of_toNat_eq
    simp only [BitVec.toNat_setWidth, BitVec.toNat_ofNat]
    omega
  exact (step_transacts (s := s.withFetchWord 8 w) rfl (decodeHtw_encodeHtw _) (.inl rfl)).trans
    (transact_write_cmd hcode _)

/-- Settles O11: a step on a valid word is its transaction, here a read. -/
theorem hostReadStepOnlyAnswers : Obligations.HostReadStepOnlyAnswers := by
  unfold Obligations.HostReadStepOnlyAnswers
  intro s w rest a hp hidle hw
  rw [step_transacts hp hw (.inl hidle), transact_read]
  rfl

/-- Settles O12: a step on a valid word is its transaction, here a write off CMD. -/
theorem hostWriteStepOnlyStores : Obligations.HostWriteStepOnlyStores := by
  unfold Obligations.HostWriteStepOnlyStores
  intro s w rest a d hp hidle hw hcmd
  rw [step_transacts hp hw (.inl hidle), transact_store hcmd]

/-- Bit 7 of STATUS is BUSY (R30). -/
theorem State.hostRead_status_getLsbD_seven (s : State) : (s.hostRead 0x301#12).getLsbD 7 = s.busy := by
  have hread : s.hostRead 0x301#12 = s.statusByte.setWidth 16 := s.hostRead_register .status
  have hbit : (s.statusByte.setWidth 16).getLsbD 7 = s.statusByte.getLsbD 7 := by simp
  have hcode := s.err.code.isLt
  rw [hread, hbit, getLsbD_seven, s.statusByte_toNat]
  cases s.busy <;> cases s.fovf <;> simp <;> omega

/-- Settles O14: a step on a busy state is a refusal, or the one transaction that polls STATUS. -/
theorem busyAdmitsOnlyStatusReads : Obligations.BusyAdmitsOnlyStatusReads := by
  unfold Obligations.BusyAdmitsOnlyStatusReads
  intro s w rest t hp hbusy hw
  refine ⟨step_busy hp hw hbusy, fun ht => ?_⟩
  rw [step_transacts hp hw (.inr ht), ht, transact_read]
  exact ⟨_, (State.hostRead_status_getLsbD_seven _).trans hbusy, rfl⟩

/-! ## The invariant -/

/-- Whatever TsUnpack gives, the form it names can carry (R89). -/
theorem tsUnpack_decoded (bytes : List Byte) : (tsUnpack bytes).ts.Decoded (tsUnpack bytes).ext := by
  have hsec : (tsUnpack bytes).ts.sec.toNat = _ := tsExtract_sec ..
  have hmin : (tsUnpack bytes).ts.min.toNat = _ := tsExtract_min ..
  have hhour : (tsUnpack bytes).ts.hour.toNat = _ := tsExtract_hour ..
  have hdom : (tsUnpack bytes).ts.dom.toNat = _ := tsExtract_dom ..
  have hmon : (tsUnpack bytes).ts.mon.toNat = _ := tsExtract_mon ..
  have hyear : (tsUnpack bytes).ts.year.toNat = _ := tsExtract_year ..
  have hext : (tsUnpack bytes).ext = _ := tsExtract_ext ..
  constructor
  case dow_zero => rfl
  case sec_lt =>
    rw [hsec]
    split <;> omega
  case year_lt =>
    rw [hyear]
    split <;> omega
  case compact_sec =>
    intro hcompact
    rw [hext, decide_eq_false_iff_not] at hcompact
    exact BitVec.eq_of_toNat_eq (hsec.trans (if_neg hcompact))
  case compact_year =>
    intro hcompact
    rw [hext, decide_eq_false_iff_not] at hcompact
    rw [hyear, if_neg hcompact]
    omega
  all_goals omega

section Keeps

variable {s : State} (h : s.Inv)
include h

theorem State.Inv.setPending (inputs : List HostInput) : State.Inv { s with pending := inputs } := { h with }

theorem State.Inv.answer (d : Half) : (s.answer d).Inv := { h with }

theorem State.Inv.memWrite (a : Nat) (bytes : List Byte) : (s.memWrite a bytes).Inv :=
  { h with buf_wf := Memory.writeList_wf bytes h.buf_wf a }

theorem State.Inv.writeRdout (entries : Vector Reading Config.rdDepth) : (s.writeRdout entries).Inv := { h with }

theorem State.Inv.writeStamp (bytes : List Byte) :
    ((s.writeOts (tsUnpack bytes).ts).writeOext (tsUnpack bytes).ext).Inv :=
  { h with ots_decoded := tsUnpack_decoded bytes }

theorem State.Inv.writeFraming {tag : Byte} {n : Nat} (htag : (viewOf tag).isSome) (hn : n ≤ 31) :
    (s.writeFraming tag n).Inv :=
  { h with
    onrd_le := by rw [State.writeFraming_onrd, BitVec.toNat_ofNat]; omega
    otag_view := .inr htag }

theorem State.Inv.succeed {n : Nat} (hn : n ≤ 256) (ovf : Bool) : (s.succeed n ovf).Inv :=
  { h with
    fovf_ok := fun _ => rfl
    error_rlen := fun herr => absurd rfl herr
    rlen_le := by rw [State.succeed_rlen, rlen_toNat hn]; exact hn }

theorem State.Inv.raise (e : Err) : (s.raise e).Inv :=
  { h with
    fovf_ok := fun hovf => absurd hovf (by simp)
    error_rlen := fun _ => rfl
    rlen_le := Nat.zero_le _ }

theorem State.Inv.writeReg (r : Reg) (d : Half) : (s.writeReg r d).Inv := by
  cases r <;> exact { h with }

theorem State.Inv.hostStore (a : HostAddr) (d : Half) : (s.hostStore a d).Inv := by
  cases ha : locate a with
  | buf n => rw [s.hostStore_buf ha]; exact h.memWrite n _
  | rdin i f => rw [s.hostStore_rdin ha]; exact { h with }
  | rdout i f => rw [s.hostStore_rdout ha]; exact h
  | reg r => rw [s.hostStore_reg ha]; exact h.writeReg r d
  | reserved => rw [s.hostStore_reserved ha]; exact h

end Keeps

/-- PKT_UNPACK finds at most 31 readings, since the packet ends inside BUF (R41, R190). -/
theorem PktFramed.count_le {s : State} {h : PktHeader} (hf : PktFramed s h) : h.count ≤ 31 := by
  refine count_le_of_pktTotal_le (v := h.view) (e := h.ext) ?_
  have hinside : h.len + 1 ≤ Config.bufSize := hf.inside.trans s.inle_le
  have hrecords : h.count * h.view.rw = h.len - 1 - tsWidth h.ext := by
    rw [hf.count_eq, Nat.div_mul_cancel (Nat.dvd_of_mod_eq_zero hf.exact)]
  have hstamp := hf.stamp
  rw [pktTotal]
  omega

theorem State.Inv.exec {s t : State} (h : s.Inv) {i : Instr} (ht : exec i s = .next t) : t.Inv := by
  rcases exec_next_cases ht with ⟨e, -, rfl⟩ | ⟨-, -, rfl⟩ | ⟨-, w, -, rfl⟩ | ⟨-, v, -, rfl⟩ | ⟨-, v, -, rfl⟩ |
    ⟨-, v, hv, rfl⟩ | ⟨-, hd, hh, rfl⟩
  · exact h.raise e
  · exact (h.memWrite _ _).succeed ((tsWidth_bounds s.ext).2.trans (by decide)) _
  · exact (h.writeStamp _).succeed ((tsWidth_bounds _).2.trans (by decide)) _
  · exact (h.memWrite _ _).succeed (by cases v <;> decide) _
  · exact (h.writeRdout _).succeed (by cases v <;> decide) _
  · exact (h.memWrite _ _).succeed ((pktPackCheck_ok.1 hv).2.trans s.cape_le) _
  · have hf := pktUnpackCheck_ok.1 hh
    have htag : (viewOf (s.byteAt 0)).isSome := by rw [hf.view]; rfl
    exact (((h.writeRdout _).writeFraming htag hf.count_le).writeStamp _).succeed (hf.inside.trans s.inle_le) _

/-- A transaction always has a next state (R21, R225, R226). -/
theorem transact_next (t : HostTxn) (s : State) : ∃ u, transact t s = .next u := by
  cases t with
  | read a => exact ⟨_, transact_read a s⟩
  | write a d =>
    by_cases ha : a = 0x300#12
    · subst ha
      cases hc : decodeCommand (d.extractLsb' 0 8) with
      | ok i =>
        obtain ⟨u, hu, -⟩ := commandsAreAllOrNothing i s
        exact ⟨u, (transact_command hc).trans hu⟩
      | error e => exact ⟨_, transact_illegal hc⟩
    · exact ⟨_, transact_store ha⟩

theorem State.Inv.transact {s u : State} (h : s.Inv) {t : HostTxn} (hu : transact t s = .next u) : u.Inv := by
  cases t with
  | read a =>
    cases (transact_read a s).symm.trans hu
    exact h.answer _
  | write a d =>
    by_cases ha : a = 0x300#12
    · subst ha
      cases hc : decodeCommand (d.extractLsb' 0 8) with
      | ok i => exact h.exec ((transact_command hc).symm.trans hu)
      | error e =>
        cases (transact_illegal hc).symm.trans hu
        exact h.raise _
    · cases (transact_store ha).symm.trans hu
      exact h.hostStore a d

theorem Timestamp.zero_decoded : Timestamp.zero.Decoded false := by
  constructor <;> decide

theorem State.resetWith_inv (draw : Nat) (pending : List HostInput) (answers : List Half) :
    (State.resetWith draw pending answers).Inv where
  buf_wf := Memory.nil_wf
  idle := rfl
  fovf_ok := fun _ => rfl
  error_rlen := fun _ => rfl
  rlen_le := Nat.zero_le _
  onrd_le := Nat.zero_le _
  otag_view := .inl rfl
  ots_decoded := Timestamp.zero_decoded

/-- Settles O58: the machine's first state is one of the states after a reset. -/
theorem invariantHoldsAtReset : Obligations.InvariantHoldsAtReset := by
  unfold Obligations.InvariantHoldsAtReset
  exact ⟨State.resetWith_inv 0 [] [], State.resetWith_inv⟩

/-- Settles O59, by the cases of a step: waiting, reset, and a transaction, which writes by operations that each keep
the invariant. -/
theorem stepKeepsInvariant : Obligations.StepKeepsInvariant := by
  unfold Obligations.StepKeepsInvariant
  intro s t h ht
  rcases step_cases s with ⟨-, hx⟩ | ⟨rest, -, hx⟩ | ⟨w, rest, -, ⟨e, -, hx⟩ | ⟨txn, -, ⟨-, -, hx⟩ | ⟨-, hx⟩⟩⟩ <;>
    rw [hx] at ht
  · cases ht
    exact h
  · cases ht
    exact State.resetWith_inv _ _ _
  · cases ht
  · cases ht
  · exact (h.setPending rest).transact ht

/-- Settles O60: no step from the invariant meets BUSY = 1, and a transaction always has a next state. -/
theorem onlyInvalidWordsStop : Obligations.OnlyInvalidWordsStop := by
  unfold Obligations.OnlyInvalidWordsStop
  intro s h
  have hidle := h.idle
  rcases step_cases s with ⟨hp, hx⟩ | ⟨rest, hp, hx⟩ | ⟨w, rest, hp, hword⟩
  · exact ⟨fun _ => ⟨_, hx⟩, fun r => by simp [hx, hp]⟩
  · exact ⟨fun _ => ⟨_, hx⟩, fun r => by simp [hx, hp]⟩
  · rcases hword with ⟨e, he, hx⟩ | ⟨t, ht, ⟨hbusy, -⟩ | ⟨-, hx⟩⟩
    · have hbad : htwWellFormed w = false := by
        rw [Bool.eq_false_iff, ne_eq, htwWellFormed_iff_decodes]
        rintro ⟨t, ht⟩
        cases ht.symm.trans he
      refine ⟨fun hvalid => absurd (hvalid w rest hp) (Bool.eq_false_iff.1 hbad), fun r => ⟨fun hr => ?_, ?_⟩⟩
      · cases hx.symm.trans hr
        exact ⟨rfl, w, rest, hp, hbad⟩
      · rintro ⟨rfl, -⟩
        exact hx
    · cases hidle.symm.trans hbusy
    · have hgood := (htwWellFormed_iff_decodes w).2 ⟨t, ht⟩
      obtain ⟨u, hu⟩ := transact_next t { s with pending := rest }
      have hnext := hx.trans hu
      refine ⟨fun _ => ⟨u, hnext⟩, fun r => ⟨fun hr => ?_, ?_⟩⟩
      · cases hnext.symm.trans hr
      · rintro ⟨-, w', rest', hp', hbad⟩
        cases hp.symm.trans hp'
        cases hgood.symm.trans hbad

/-! ## Pseudo-instructions -/

/-- Settles O6: each expansion entry by entry; an entry of RDIN has its fields at consecutive addresses. -/
theorem pseudoInstructionsExpand : Obligations.PseudoInstructionsExpand := by
  unfold Obligations.PseudoInstructionsExpand
  refine ⟨fun i => ?_, fun a bytes => ?_, fun a bytes hfits k hk => ?_, ?_, ?_⟩
  · cases i <;> rfl
  · simp [AsmLine.expand]
  · simp [AsmLine.expand, asmWrite, AsmTarget.hostAddr, AsmTarget.address, hk]
  · intro i v0 v1 v2 v3 v4 v5 v6 v7
    have hoffset (k : Nat) : 0x100 + 8 * i + k = 0x100 + k + 8 * i := Nat.add_right_comm ..
    simp only [AsmLine.expand, Field.all, List.zip_cons_cons, List.zip_nil_left, List.map_cons, List.map_nil, asmWrite,
      AsmTarget.hostAddr, AsmTarget.address, Field.index, hoffset]
  · intros
    rfl

end Sys2Proof.Machine
end
